-- ==== Sys2Proof/Word.lean ====
section
/-!
DEFINITION. The word types of the port window and of the registers (spec/00_scope.md R10, spec/20_memory.md R36).
The W-bit arithmetic of R12 and R13 is in Machine/Operands.lean.
-/

namespace Sys2Proof

/-- A 32-bit register of the port window, and the container of every W-bit value (`W <= 32`, R6). -/
abbrev Word := BitVec 32

/-- A byte on the bus, a command opcode, or a μop code (R37, R51, R60). -/
abbrev Byte := BitVec 8

end Sys2Proof
end

