-- ==== Sys2Proof/Machine/Types.lean ====
section
/-!
DEFINITION. The small types State is built from: contexts, AlarmState, the event history, the host's bus accesses, the
agents' moves, and a register bank (spec/00_scope.md R14; spec/10_state.md R15, R25, R28 to R30, R33).
-/

namespace Sys2Proof.Machine

/-- The context `CTX` (R14, R28). Its 2-bit code 3 is never held, so it has no constructor. -/
inductive Ctx where
  /-- Normal, non-interrupt kernel code; code 0. -/
  | normal
  /-- The block runs its own service μops; code 1. -/
  | service
  /-- The kernel's notification callback runs; code 2. -/
  | callback
  deriving DecidableEq, Repr

/-- AlarmState `ASTATE` (R25): Disarmed = 0, Armed = 1. -/
inductive AState where
  /-- `ASTATE = 0`. -/
  | disarmed
  /-- `ASTATE = 1`. -/
  | armed
  deriving DecidableEq, Repr

/-- An entry of the event history `HIST` (R33). -/
inductive Event where
  /-- The notification entry point was called (R123). -/
  | notify
  /-- A compare match latched at this count (R65, R72). -/
  | matched (count : Word)
  /-- A near match was dropped by the draw of R65. -/
  | missed (count : Word)
  deriving DecidableEq, Repr

/-- The response and operand registers of one context (R29, R30). -/
structure Bank where
  /-- `ARG[c]`, the operand register. -/
  arg : Word
  /-- `RVAL[c]`, the value of the last command of this context. -/
  rval : Word
  /-- `RSTAT[c]`, its status: info in bits 31..8, code in bits 7..0. -/
  rstat : Word
  deriving DecidableEq, Repr

/-- One bus access of the host (R35, R38), at a platform address. -/
inductive Access where
  /-- A load of `size` bytes. -/
  | read (addr : Nat) (size : Nat)
  /-- A store of these bytes, the first at `addr`, the next at `addr + 1`, and so on (R37). -/
  | write (addr : Nat) (bytes : List Byte)
  deriving DecidableEq, Repr

/-- A step of one of the agents of R15. RESET is the launch of a run, not a step inside it (R135). -/
inductive Move where
  /-- The counter agent: `TICK` (R64). -/
  | tick
  /-- The sequencer: one μop (R105). -/
  | sequencer
  /-- The interrupt-acceptance agent: `ACCEPT` (R121). -/
  | accept
  /-- The host: one bus access (R131). -/
  | host (access : Access)
  deriving DecidableEq, Repr

/-- The agents that move of themselves. The host is not one: its accesses are its program's, an input of the run (R131). -/
inductive Agent where
  /-- The counter. -/
  | counter
  /-- The sequencer. -/
  | sequencer
  /-- The interrupt acceptance. -/
  | acceptance
  deriving DecidableEq, Repr, Inhabited

/-- The step an agent takes (R15). -/
def Agent.move : Agent → Move
  | .counter => .tick
  | .sequencer => .sequencer
  | .acceptance => .accept

end Sys2Proof.Machine
end

