-- ==== Sys2Proof/Config.lean ====
section
/-!
DEFINITION. What is fixed for an instance (spec/00_scope.md R5 to R9, spec/10_state.md R16), and the free values.
The parameters are a record that State carries and no step writes, so that every statement over all states is a statement
over all instances (log entry 1). The free values have no body: nothing can prove what they are (log entries 3 and 4).
-/

namespace Sys2Proof

/-- The `OPEN` parameters and configuration inputs of one instance. -/
structure Config where
  /-- `BACKEND_SEL` (R8): 0 = RealTimeClockStyle, 1 = CaptureCompareStyle; 2 and 3 are rejected by INIT. -/
  backendSel : BitVec 2
  /-- `MODE_SEL` (R8): 0 = PeriodicTick, 1 = TickLess; 2 (event-only) and 3 are rejected by INIT. -/
  modeSel : BitVec 2
  /-- `PERIOD` (R8), the fixed tick period. -/
  period : Word
  /-- `LOOKAHEAD` (R8), the configured minimum look-ahead. -/
  lookahead : Word
  /-- `W_RTC` (R6). -/
  wRtc : Nat
  /-- `W_CC` (R6). -/
  wCc : Nat
  /-- `FLOOR_RTC` (R7). -/
  floorRtc : Word
  /-- `FLOOR_CC` (R7). -/
  floorCc : Word
  /-- `BASE` (R9), the platform address of the port window. -/
  base : Nat
  /-- `IRQ_LINE` (R9), the platform's line for the interrupt output; the machine never reads it. -/
  irqLine : Nat
  /-- `P_WRITE_EQ_MATCH` (R9): does writing a compare value equal to the count latch a match? -/
  pWriteEqMatch : Bool
  /-- `MISS_WINDOW` (R9), the near-compare window. -/
  missWindow : Nat
  /-- `SEQ_TICK_BOUND` (R9, R150), a premise claims may take; the machine never reads it. -/
  seqTickBound : Option Nat
  deriving DecidableEq, Repr

/-- The draw `draw_bool()` of R65, a free value: the n-th draw of the run. -/
opaque Config.freeBool : Nat → Bool

/-- The agent that moves next when the schedule has run out, a free value (R15: any enabled step may be next). The host has
made its last access then: its program is the schedule's (R131, log entry 3). -/
opaque Config.freeAgent : Nat → Machine.Agent

end Sys2Proof
end

