-- ==== Sys2Proof/Syntax.lean ====
section
/-!
DEFINITION. The instructions: one constructor per row of spec/opcode_table.json (spec/30_encoding.md R52 and R60).
The ten commands are written to CMD by the host; the eighteen μops are run by the sequencer.
No row has an operand field: a command takes its operand from `ARG[CTX]` (R51) and a μop from named state (R60).
-/

namespace Sys2Proof

/-- Every row of the opcode table. -/
inductive Instr where
  /-- `INIT`, R107. -/
  | init
  /-- `GET_COUNTER`, R109. -/
  | getCounter
  /-- `START`, R83. -/
  | start
  /-- `STOP`, R84. -/
  | stop
  /-- `SET`, R85. -/
  | set
  /-- `GET`, R86. -/
  | get
  /-- `IS_ACTIVE`, R87. -/
  | isActive
  /-- `CBRET`, R111. -/
  | cbret
  /-- `STATUS`, R113. -/
  | status
  /-- `INFO`, R115. -/
  | info
  /-- `U_INIT`, R108. -/
  | uInit
  /-- `U_READ_CNT`, R66. -/
  | uReadCnt
  /-- `U_CAPTURE`, R67. -/
  | uCapture
  /-- `U_READ_CAP`, R68. -/
  | uReadCap
  /-- `U_ARM_ARG`, R70. -/
  | uArmArg
  /-- `U_ARM_PER`, R71. -/
  | uArmPer
  /-- `U_CLR`, R73. -/
  | uClr
  /-- `U_IE1`, R74. -/
  | uIe1
  /-- `U_IE0`, R75. -/
  | uIe0
  /-- `U_QIE`, R76. -/
  | uQie
  /-- `U_QSHADOW`, R77. -/
  | uQshadow
  /-- `U_RDCMP`, R78. -/
  | uRdcmp
  /-- `U_ARMED`, R81. -/
  | uArmed
  /-- `U_DISARMED`, R82. -/
  | uDisarmed
  /-- `U_NOTIFY`, R123. -/
  | uNotify
  /-- `U_CBRET`, R112. -/
  | uCbret
  /-- `U_STATUS`, R114. -/
  | uStatus
  /-- `U_INFO`, R116. -/
  | uInfo
  deriving DecidableEq, Repr

end Sys2Proof
end

