-- ==== Sys2Proof/WellFormed.lean ====
section
/-!
DEFINITION. Well-formedness, as Bool checks: of an instruction in its place (a command or a μop), of
a bus access, and of an instance's parameters (spec/30_encoding.md R59 and R60, spec/20_memory.md R38, spec/00_scope.md R6, R7, R9).
-/

namespace Sys2Proof

/-- The rows of format CMDW: what a host can write to CMD (R52). -/
def Instr.isCommand : Instr → Bool
  | .init | .getCounter | .start | .stop | .set | .get | .isActive | .cbret | .status | .info => true
  | _ => false

/-- The rows of format UOP: what the sequencer runs; no host access can issue one (R59). -/
def Instr.isUop (i : Instr) : Bool := !i.isCommand

/-- A well-formed content of `SEQ`: μops only (R31, R60), at most five of them (R105). -/
def wfSequence (q : List Instr) : Bool := q.all Instr.isUop && decide (q.length ≤ 5)

/-- A well-formed bus access moves 1, 2, 4 or 8 bytes (R38). -/
def Machine.Access.wf : Machine.Access → Bool
  | .read _ size => size == 1 || size == 2 || size == 4 || size == 8
  | .write _ bytes => bytes.length == 1 || bytes.length == 2 || bytes.length == 4 || bytes.length == 8

/-- The stated ranges of the `OPEN` parameters: R6 (widths), R7 (floors), R9 (`MISS_WINDOW`, below `2^W` of the working
width: `W_CC` on CC, else `W_RTC`). The values INIT checks are not restricted here. -/
def Config.wf (c : Config) : Bool :=
  decide (2 ≤ c.wRtc) && decide (c.wRtc ≤ c.wCc) && decide (c.wCc ≤ 32) &&
  decide (c.floorRtc.toNat < 2 ^ c.wRtc) && decide (c.floorCc.toNat < 2 ^ c.wCc) &&
  decide (c.missWindow < 2 ^ (if c.backendSel = 1 then c.wCc else c.wRtc))

end Sys2Proof
end

