-- ==== Sys2Proof/Decode.lean ====
section
/-!
DEFINITION. The decoder, total on any bytes and rejecting by name, and the encoder
(spec/30_encoding.md R51 to R54, R59, R60; byte order: spec/20_memory.md R37).
-/

namespace Sys2Proof

/-- Why bytes are no instruction. -/
inductive Reject where
  /-- A command word with `w[31:8] != 0`; the field as written (R53). -/
  | reservedBits (rsv : BitVec 24)
  /-- A command word with `RSV = 0` and an opcode outside 0x01 to 0x0A (R54). -/
  | illegalOpcode (opc : Byte)
  /-- A sequencer code outside 0x80 to 0x91 (R60). -/
  | notAUop (code : Byte)
  /-- Neither the four bytes of a command word nor the one byte of a μop code. -/
  | wrongLength
  deriving DecidableEq, Repr

/-- Little-endian: byte `i` of the address order holds bits `[8i+7 : 8i]` (R37). -/
def leWord (b0 b1 b2 b3 : Byte) : Word := b3 ++ b2 ++ b1 ++ b0

/-- The bytes of a 32-bit word in address order (R37). -/
def wordBytes (w : Word) : List Byte :=
  [w.extractLsb' 0 8, w.extractLsb' 8 8, w.extractLsb' 16 8, w.extractLsb' 24 8]

/-- The `OPC` field of a command word (R51). -/
def opcField (w : Word) : Byte := w.extractLsb' 0 8

/-- The `RSV` field of a command word (R51). -/
def rsvField (w : Word) : BitVec 24 := w.extractLsb' 8 24

/-- The opcode map of R52. -/
def decodeOpcode (opc : Byte) : Except Reject Instr :=
  match opc.toNat with
  | 0x01 => .ok .init
  | 0x02 => .ok .getCounter
  | 0x03 => .ok .start
  | 0x04 => .ok .stop
  | 0x05 => .ok .set
  | 0x06 => .ok .get
  | 0x07 => .ok .isActive
  | 0x08 => .ok .cbret
  | 0x09 => .ok .status
  | 0x0A => .ok .info
  | _ => .error (.illegalOpcode opc)

/-- A command word: the reserved field first, then the opcode (R51, R53, R54; the order of R103). -/
def decodeCmd (w : Word) : Except Reject Instr :=
  if rsvField w = 0 then decodeOpcode (opcField w) else .error (.reservedBits (rsvField w))

/-- The μop codes of R60. -/
def decodeUop (code : Byte) : Except Reject Instr :=
  match code.toNat with
  | 0x80 => .ok .uInit
  | 0x81 => .ok .uReadCnt
  | 0x82 => .ok .uCapture
  | 0x83 => .ok .uReadCap
  | 0x84 => .ok .uArmArg
  | 0x85 => .ok .uArmPer
  | 0x86 => .ok .uClr
  | 0x87 => .ok .uIe1
  | 0x88 => .ok .uIe0
  | 0x89 => .ok .uQie
  | 0x8A => .ok .uQshadow
  | 0x8B => .ok .uRdcmp
  | 0x8C => .ok .uArmed
  | 0x8D => .ok .uDisarmed
  | 0x8E => .ok .uNotify
  | 0x8F => .ok .uCbret
  | 0x90 => .ok .uStatus
  | 0x91 => .ok .uInfo
  | _ => .error (.notAUop code)

/-- Any bytes: the four bytes of a command word in address order, or the one byte of a μop code. -/
def decodeBytes : List Byte → Except Reject Instr
  | [c] => decodeUop c
  | [b0, b1, b2, b3] => decodeCmd (leWord b0 b1 b2 b3)
  | _ => .error .wrongLength

/-- The `OPC` value of a command (R52) or the code of a μop (R60). -/
def Instr.code : Instr → Byte
  | .init => 0x01
  | .getCounter => 0x02
  | .start => 0x03
  | .stop => 0x04
  | .set => 0x05
  | .get => 0x06
  | .isActive => 0x07
  | .cbret => 0x08
  | .status => 0x09
  | .info => 0x0A
  | .uInit => 0x80
  | .uReadCnt => 0x81
  | .uCapture => 0x82
  | .uReadCap => 0x83
  | .uArmArg => 0x84
  | .uArmPer => 0x85
  | .uClr => 0x86
  | .uIe1 => 0x87
  | .uIe0 => 0x88
  | .uQie => 0x89
  | .uQshadow => 0x8A
  | .uRdcmp => 0x8B
  | .uArmed => 0x8C
  | .uDisarmed => 0x8D
  | .uNotify => 0x8E
  | .uCbret => 0x8F
  | .uStatus => 0x90
  | .uInfo => 0x91

/-- The command word of a command: its opcode below 24 reserved zeros (R51). -/
def encodeCmd (i : Instr) : Word := (0 : BitVec 24) ++ i.code

/-- The bytes of an instruction: four for a command (R51, R37), one for a μop (R60). -/
def encode (i : Instr) : List Byte := if i.isCommand then wordBytes (encodeCmd i) else [i.code]

/-- The bytes of an instruction that the opcode table gives `nbits` bits, bit 0 of `w` the least significant bit of the
first byte: one byte for a UOP row (8 bits), else the four bytes of a command word. -/
def tableBytes (nbits w : Nat) : List Byte :=
  if nbits ≤ 8 then [BitVec.ofNat 8 w] else wordBytes (BitVec.ofNat 32 w)

/-- The instruction read from bits `w` of an opcode-table row of `nbits` bits; none where the decoder refuses, or where
`w` has more bits than the row. -/
def decodeTableWord (nbits w : Nat) : Option Instr :=
  if w < 2 ^ (8 * (tableBytes nbits w).length) then (decodeBytes (tableBytes nbits w)).toOption else none

end Sys2Proof
end

