-- ==== Sys2Proof/Machine/State.lean ====
section
/-!
DEFINITION. The state of the machine: every register of spec/10_state.md, the instance's parameters, and the model's own
fields (the schedule of the agents' moves, the counter of free draws, the value of the host's last read).
The state after reset is spec/10_state.md R34 and spec/70_reset_and_hazards.md R135.
-/

namespace Sys2Proof.Machine

/-- The machine's state. W-bit registers are held in 32 bits, below `2^W` (log entry 7). -/
structure State where
  /-- The instance's parameters (R16). No step writes them. -/
  cfg : Config
  /-- `COUNTER` (R18): the free-running count, W bits. -/
  counter : Word
  /-- `COMPARE` (R19): the compare register of the alarm slot, W bits. -/
  compare : Word
  /-- `PENDING` (R20): the "compare matched" latch. -/
  pending : Bool
  /-- `IE` (R21): the compare-interrupt enable. -/
  ie : Bool
  /-- `CAPTURE` (R22): the capture register of the read slot, W bits; exists on CC only, and no RTC μop touches it. -/
  capture : Word
  /-- `NEAR` (R23): the last compare write was within `MISS_WINDOW` ahead of the count. -/
  near : Bool
  /-- `RUN` (R24): the counter runs. -/
  run : Bool
  /-- `ASTATE` (R25). -/
  astate : AState
  /-- `INIT_DONE` (R26). -/
  initDone : Bool
  /-- `FAULT` (R27): 0, or the code of the first fault. -/
  fault : Byte
  /-- `FAULT_INFO` (R27). -/
  faultInfo : BitVec 24
  /-- `CTX` (R28). -/
  ctx : Ctx
  /-- `ARG[Normal]`, `RVAL[Normal]`, `RSTAT[Normal]` (R29, R30). -/
  normal : Bank
  /-- `ARG[Callback]`, `RVAL[Callback]`, `RSTAT[Callback]` (R29, R30). -/
  callback : Bank
  /-- `SEQ` (R31): the codes of the μops still to run. `BUSY` is `SEQ != []`. -/
  seq : List Byte
  /-- `SEQ_ARG` (R31): the operand latched at issue. -/
  seqArg : Word
  /-- `SEQ_CTX` (R31): the context that started the sequence. -/
  seqCtx : Ctx
  /-- `SEQ_OPC` (R31): the opcode, or 0x00 for a service sequence. -/
  seqOpc : Byte
  /-- `RESULT` (R31): the value the sequence will respond with. -/
  result : Word
  /-- `HIST` (R33): the event history, oldest first. -/
  hist : List Event
  /-- The model's own: the moves of the agents still to come, as the environment schedules them (log entry 2). -/
  schedule : List Move
  /-- The model's own: how many free values have been drawn (log entries 3 and 4). -/
  draws : Nat
  /-- The model's own: the value the host's last legal read returned (log entry 8). -/
  lastRead : Option Word
  deriving DecidableEq, Repr

/-- Why the model stops. The block's own faults (R117, R118) are not here: they are states, with a next step. -/
inductive Fault where
  /-- The sequencer's head is a code that R60 says is no μop and a sequence never holds. Raised by step. Safe: the model
  stops, and no run from reset reaches it. -/
  | notAUop (code : Byte)
  /-- The host's access starts outside the 16-byte window, so it does not belong to the block (R36). Raised by step. Safe:
  the model stops. -/
  | outsideWindow (addr : Nat)
  /-- A bus access of a size other than 1, 2, 4 or 8 bytes: R38 gives no such access. Raised by step. Safe: the model
  stops. -/
  | notABusAccess (size : Nat)
  deriving DecidableEq, Repr

/-- Why the model gives no meaning. -/
inductive Refusal where
  /-- An instruction with no meaning yet, raised by exec's arm of that name. Safe: the model stops. -/
  | notModelled (mnemonic : String)
  deriving DecidableEq, Repr

/-- A step's answer. -/
abbrev Out := Host.Outcome State Fault Refusal

/-- The values R34 marks "draw": unspecified after RESET. -/
structure Draws where
  /-- The drawn `COUNTER`, of which W bits are used. -/
  counter : Word
  /-- The drawn `COMPARE`, of which W bits are used. -/
  compare : Word
  /-- The drawn `CAPTURE`, of which W bits are used. -/
  capture : Word
  /-- The drawn `PENDING`. -/
  pending : Bool
  /-- The drawn `ARG[Normal]`. -/
  argNormal : Word
  /-- The drawn `ARG[Callback]`. -/
  argCallback : Word
  /-- The drawn `RVAL[Normal]`. -/
  rvalNormal : Word
  /-- The drawn `RVAL[Callback]`. -/
  rvalCallback : Word
  deriving DecidableEq, Repr

/-- A drawn value cut to the instance's W bits (R6: `W_CC` on CC, else `W_RTC`). -/
def drawnW (c : Config) (v : Word) : Word :=
  BitVec.ofNat 32 (v.toNat % 2 ^ (if c.backendSel = 1 then c.wCc else c.wRtc))

/-- `RESET` (R135): every register at its value of R34, for any instance, any draws, and any schedule of the run that
RESET launches. -/
def State.resetWith (c : Config) (d : Draws) (schedule : List Move) : State where
  cfg := c
  counter := drawnW c d.counter
  compare := drawnW c d.compare
  pending := d.pending
  ie := false
  capture := drawnW c d.capture
  near := false
  run := false
  astate := .disarmed
  initDone := false
  fault := 0
  faultInfo := 0
  ctx := .normal
  normal := { arg := d.argNormal, rval := d.rvalNormal, rstat := 0 }
  callback := { arg := d.argCallback, rval := d.rvalCallback, rstat := 0 }
  seq := []
  seqArg := 0
  seqCtx := .normal
  seqOpc := 0
  result := 0
  hist := []
  schedule := schedule
  draws := 0
  lastRead := none

/-- The instance State.reset is an instance of: `PDCC/RTC/TICKLESS/W24`, the configuration of spec/95_test_vectors.md
program 4.1 (log entry 5, a DESIGN CHOICE: every value here is `OPEN` in the spec). -/
def referenceConfig : Config where
  backendSel := 0
  modeSel := 1
  period := 0
  lookahead := 5
  wRtc := 24
  wCc := 32
  floorRtc := 5
  floorCc := 5
  base := 0
  irqLine := 0
  pWriteEqMatch := false
  missWindow := 0
  seqTickBound := none

/-- All draws zero (log entry 6, a DESIGN CHOICE: R34 leaves them unspecified). -/
def zeroDraws : Draws where
  counter := 0
  compare := 0
  capture := 0
  pending := false
  argNormal := 0
  argCallback := 0
  rvalNormal := 0
  rvalCallback := 0

/-- The machine right after reset: R34, for the reference instance, the draws zero, and nothing scheduled. -/
def State.reset : State := State.resetWith referenceConfig zeroDraws []

end Sys2Proof.Machine
end

