-- ==== Sys2Proof/Machine/Operands.lean ====
section
/-!
DEFINITION. W-bit arithmetic (spec/00_scope.md R12, R13), the instance's working width and floor (R6, R7), the operand
forms of the commands (spec/30_encoding.md R55, R56, R115), and the banks of the operand and response registers
(spec/10_state.md R29, R30).
-/

namespace Sys2Proof.Machine

/-- The working width `W` (R6): `W_CC` when `BACKEND_SEL = 1`, else `W_RTC`. -/
def width (c : Config) : Nat := if c.backendSel = 1 then c.wCc else c.wRtc

/-- `FLOOR[BACKEND_SEL]` (R7). -/
def floorOf (c : Config) : Word := if c.backendSel = 1 then c.floorCc else c.floorRtc

/-- `trunc_W(v) = v mod 2^W` (R10). -/
def truncW (w : Nat) (v : Word) : Word := BitVec.ofNat 32 (v.toNat % 2 ^ w)

/-- `add_W(a, b) = (a + b) mod 2^W` (R12). -/
def addW (w : Nat) (a b : Word) : Word := BitVec.ofNat 32 ((a.toNat + b.toNat) % 2 ^ w)

/-- `mdiff_W(b, a) = (b - a) mod 2^W`, in `[0, 2^W)` (R13). -/
def mdiffW (w : Nat) (b a : Word) : Nat := (b.toNat + (2 ^ w - a.toNat % 2 ^ w)) % 2 ^ w

/-- `sdiff_W(b, a)`: `mdiff_W(b, a)` read as a W-bit two's-complement number (R13). -/
def sdiffW (w : Nat) (b a : Word) : Int :=
  if mdiffW w b a < 2 ^ (w - 1) then (mdiffW w b a : Int) else (mdiffW w b a : Int) - 2 ^ w

/-- `after_W(b, a)` (R13): `sdiff_W(b, a) > 0`. -/
def afterW (w : Nat) (b a : Word) : Bool := decide (0 < sdiffW w b a)

/-- The 2-bit code of a context (R28). -/
def ctxCode : Ctx → BitVec 2
  | .normal => 0
  | .service => 1
  | .callback => 2

/-- The bank of a context. Service has none (R29); it is never asked for, since the port is held while `CTX = Service`
(R43) and a service sequence ends without a response (R106). -/
def bankOf (s : State) : Ctx → Bank
  | .callback => s.callback
  | _ => s.normal

/-- The deadline operand of START and SET: `trunc_W(SEQ_ARG)`, no fault on the bits above W (R55). -/
def deadline (s : State) : Word := truncW (width s.cfg) s.seqArg

/-- The item operand of INFO is all of `SEQ_ARG`; the items 0 to 5 of R116, none for any other. Items 0 and 3 read 0 on an
invalid `BACKEND_SEL`. -/
def infoItem (c : Config) (k : Word) : Option Word :=
  match k.toNat with
  | 0 => some (if c.backendSel = 0 ∨ c.backendSel = 1 then BitVec.ofNat 32 (width c) else 0)
  | 1 => some (c.backendSel.setWidth 32)
  | 2 => some (c.modeSel.setWidth 32)
  | 3 => some (if c.backendSel = 0 ∨ c.backendSel = 1 then floorOf c else 0)
  | 4 => some c.period
  | 5 => some c.lookahead
  | _ => none

/-- The backends a μop belongs to, the third column of R60. A μop of both is available with any `BACKEND_SEL`
(log entry 10). -/
def uopAvailable (c : Config) : Instr → Bool
  | .uReadCnt => c.backendSel == 0
  | .uQie => c.backendSel == 0
  | .uCapture => c.backendSel == 1
  | .uReadCap => c.backendSel == 1
  | .uQshadow => c.backendSel == 1
  | _ => true

end Sys2Proof.Machine
end

