-- ==== Sys2Proof/Machine/Flags.lean ====
section
/-!
DEFINITION. The flags and the words computed from them: the IRQ output (spec/10_state.md R32), when a host access is held
(spec/20_memory.md R43), when ACCEPT is enabled (spec/60_exceptions.md R121), the STATUS word (spec/30_encoding.md R58,
spec/43_facade.md R114), the RSTAT word (R57), and the bad-access info (R38).
-/

namespace Sys2Proof.Machine

/-- A Bool result: 1 for true and 0 for false (R57). -/
def boolWord (b : Bool) : Word := if b then 1 else 0

/-- `IRQ = PENDING and IE`, derived and not stored (R32). -/
def irq (s : State) : Bool := s.pending && s.ie

/-- `BUSY`: `SEQ != []` (R31). -/
def busy (s : State) : Bool := !s.seq.isEmpty

/-- A host access has no step: `BUSY`, or `CTX = Service` (R43). -/
def held (s : State) : Bool := busy s || decide (s.ctx = .service)

/-- When ACCEPT may be taken (R121). -/
def acceptEnabled (s : State) : Bool :=
  decide (s.fault = 0) && s.initDone && decide (s.ctx = .normal) && !busy s && irq s

/-- The next tick brings the count to `COMPARE` (R65: a match is the arrival). -/
def arriving (s : State) : Bool := decide (addW (width s.cfg) s.counter 1 = s.compare)

/-- The STATUS word: bit 4 IN_CB, 3 RUN, 2 PENDING, 1 ARMED, 0 INIT_DONE, the rest 0 (R58, R114). -/
def statusWord (s : State) : Word :=
  (BitVec.ofBool (decide (s.seqCtx = .callback)) ++ BitVec.ofBool s.run ++ BitVec.ofBool s.pending ++
    BitVec.ofBool (decide (s.astate = .armed)) ++ BitVec.ofBool s.initDone).setWidth 32

/-- An RSTAT word `{info[23:0], code[7:0]}` (R57). -/
def rstatWord (info : BitVec 24) (code : Byte) : Word := info ++ code

/-- The info of BAD_ACCESS: `{size[3:0], 0b000, is_write, offset[7:0]}`, zero-extended (R38). -/
def badInfo (offset size : Nat) (isWrite : Bool) : BitVec 24 :=
  (BitVec.ofNat 4 size ++ (0 : BitVec 3) ++ BitVec.ofBool isWrite ++ BitVec.ofNat 8 offset).setWidth 24

end Sys2Proof.Machine
end

