-- ==== Sys2Proof/Machine/Ops.lean ====
section
/-!
DEFINITION. The named operations the meanings are made of: the response (spec/43_facade.md R106), raising a fault
(spec/60_exceptions.md R117), the compare write (spec/40_counter_backend.md R72), the dispatch of a command (R103), the end
of a sequencer step (R105), entering the interrupt service (R121, R122), the callback (R123), and the return from it (R112).
-/

namespace Sys2Proof.Machine

/-- Write a response into the bank of a context: `RVAL[c] <- v; RSTAT[c] <- st`. Service has no bank (R29, R117). -/
def writeResponse (c : Ctx) (v st : Word) (s : State) : State :=
  { s with
    normal := if c = .normal then { s.normal with rval := v, rstat := st } else s.normal
    callback := if c = .callback then { s.callback with rval := v, rstat := st } else s.callback }

/-- `Respond(v)`: the value and a zero status in the bank of `SEQ_CTX` (R106). -/
def respond (v : Word) (s : State) : State := writeResponse s.seqCtx v 0 s

/-- The first fault is recorded, answered in the bank of `SEQ_CTX`, and ends the sequence (R117). -/
def recordFault (code : Byte) (info : BitVec 24) (s : State) : State :=
  { writeResponse s.seqCtx 0 (rstatWord info code) s with
    fault := code
    faultInfo := info
    seq := [] }

/-- `raise Fault(code, info)` (R117): a fault after the first changes nothing. -/
def raiseFault (code : Byte) (info : BitVec 24) (s : State) : State :=
  if s.fault = 0 then recordFault code info s else s

/-- `ArmCompare(v)` (R72): the compare write, with the write-equal latch and the near window. -/
def armCompare (v : Word) (s : State) : State :=
  { s with
    compare := v
    pending := s.pending || (decide (v = s.counter) && s.cfg.pWriteEqMatch)
    near := decide (v ≠ s.counter) && decide (mdiffW (width s.cfg) v s.counter ≤ s.cfg.missWindow)
    hist := if v = s.counter ∧ s.cfg.pWriteEqMatch = true then s.hist ++ [.matched v] else s.hist }

/-- The dispatch checks that depend on the command, in the order of R103: DOUBLE_INIT, NOT_INIT, BAD_CBRET. -/
def dispatchFault (opc : Byte) (s : State) : Option (Byte × BitVec 24) :=
  if opc = 0x01 ∧ s.initDone = true then some (0x11, 0)
  else if (opc ≠ 0x01 ∧ opc ≠ 0x09 ∧ opc ≠ 0x0A) ∧ s.initDone = false then some (0x10, opc.setWidth 24)
  else if opc = 0x08 ∧ s.ctx ≠ .callback then some (0x14, (ctxCode s.ctx).setWidth 24)
  else none

/-- `SEQ_CTX <- CTX`, the first act of a dispatch (R103) and of a bad access (R38). -/
def enterIssue (s : State) : State := { s with seqCtx := s.ctx }

/-- A command written after a fault: the fault record is answered again, nothing else (R44, R103). -/
def answerFault (s : State) : State := writeResponse s.ctx 0 (rstatWord s.faultInfo s.fault) (enterIssue s)

/-- Latch the operand and load the μop sequence (R103, R104, R61). -/
def loadSequence (opc : Byte) (q : List Instr) (s : State) : State :=
  { s with
    seqCtx := s.ctx
    seqOpc := opc
    seqArg := (bankOf s s.ctx).arg
    result := 0
    seq := q.map Instr.code }

/-- A CMD write of a defined command: the rest of the dispatch of R103. While the host is held the write waits, and
nothing changes (R43). -/
def issue (opc : Byte) (q : List Instr) (s : State) : Out :=
  if held s then .next s
  else if s.fault ≠ 0 then .next (answerFault s)
  else match dispatchFault opc s with
    | some (code, info) => .next (raiseFault code info (enterIssue s))
    | none => .next (loadSequence opc q s)

/-- The end of a sequencer step (R105): the last μop of a command responds with `RESULT`; a service does not (R106). -/
def finishUop (s : State) : State := if s.seq = [] ∧ s.seqCtx ≠ .service then respond s.result s else s

/-- A sequencer step on the μop `u`, already popped from `SEQ` (R105): the availability guard of R80, then `Perform(u)`,
where none is a μop that raises, then the response. -/
def runUop (u : Instr) (perform : State → Except (Byte × BitVec 24) State) (s : State) : Out :=
  if uopAvailable s.cfg u = false then .next (raiseFault 0x17 (u.code.setWidth 24) s)
  else match perform s with
    | .ok t => .next (finishUop t)
    | .error (code, info) => .next (raiseFault code info s)

/-- A sequencer step on a μop that cannot fault. -/
def runTotal (u : Instr) (perform : State → State) (s : State) : Out := runUop u (fun t => .ok (perform t)) s

/-- The service sequence of the configured mode (R99, R100, R122). -/
def serviceSequence (c : Config) : List Instr :=
  if c.modeSel = 0 then [.uClr, .uArmPer, .uNotify] else [.uClr, .uIe0, .uClr, .uDisarmed, .uNotify]

/-- Taking the compare interrupt: `CTX <- Service; StartService()` (R121, R122). Nothing is saved: the banks keep the
normal context's registers (R124). -/
def enterService (s : State) : State :=
  { s with
    ctx := .service
    seqCtx := .service
    seqOpc := 0
    seqArg := 0
    result := 0
    seq := (serviceSequence s.cfg).map Instr.code }

/-- `U_NOTIFY`'s effect: `Emit(NOTIFY)`, and control to the callback (R123). -/
def enterCallback (s : State) : State := { s with hist := s.hist ++ [.notify], ctx := .callback }

/-- The return from the callback: `CTX <- Normal`, and nothing else (R112, R126). -/
def returnFromCallback (s : State) : State := { s with ctx := .normal }

end Sys2Proof.Machine
end

