-- ==== Sys2Proof/Machine/Counter.lean ====
section
/-!
DEFINITION. The counter agent (spec/40_counter_backend.md R64, R65) and the interrupt-acceptance agent
(spec/60_exceptions.md R121).
-/

namespace Sys2Proof.Machine

/-- The tick of R65, where `latch` is the answer of `draw_bool()`, asked for only on an arrival with `NEAR = 1`. -/
def tickWith (latch : Bool) (s : State) : State :=
  { s with
    counter := addW (width s.cfg) s.counter 1
    pending := s.pending || (arriving s && (!s.near || latch))
    near := s.near && !arriving s
    hist := if arriving s = true then
        s.hist ++ [if s.near = true ∧ latch = false then .missed (addW (width s.cfg) s.counter 1)
                   else .matched (addW (width s.cfg) s.counter 1)]
      else s.hist }

/-- The free draw is used up when R65 asks for one. -/
def countDraw (s : State) : State :=
  { s with draws := if s.near = true ∧ arriving s = true then s.draws + 1 else s.draws }

/-- The counter agent's move: `TICK` if `RUN = 1` (R64), else it has no step. -/
def tick (s : State) : State := if s.run = true then tickWith (Config.freeBool s.draws) (countDraw s) else s

/-- The acceptance agent's move: `ACCEPT` if it is enabled (R121), else it has no step. -/
def accept (s : State) : State := if acceptEnabled s = true then enterService s else s

end Sys2Proof.Machine
end

