-- ==== Sys2Proof/Machine/Alarm.lean ====
section
/-!
DEFINITION. The alarm controller: the two AlarmState μops (spec/41_alarm_controller.md R81, R82) and the five alarm
commands (R83 to R87), each its opcode (spec/30_encoding.md R52) and its μop sequence (R61).
-/

namespace Sys2Proof.Machine

/-- `START` (R83): program the compare, clear the stale latch, enable, arm. -/
def execStart (s : State) : Out := issue 0x03 [.uArmArg, .uClr, .uIe1, .uArmed] s

/-- `STOP` (R84): disable, clear, disarm. -/
def execStop (s : State) : Out := issue 0x04 [.uIe0, .uClr, .uDisarmed] s

/-- `SET` (R85): one compare write. -/
def execSet (s : State) : Out := issue 0x05 [.uArmArg] s

/-- `GET` (R86): read the compare register. -/
def execGet (s : State) : Out := issue 0x06 [.uRdcmp] s

/-- `IS_ACTIVE` (R87): the enable on RTC, the software shadow otherwise. -/
def execIsActive (s : State) : Out := issue 0x07 (if s.cfg.backendSel = 0 then [.uQie] else [.uQshadow]) s

/-- `U_ARMED` (R81): `ASTATE <- Armed`. -/
def execUArmed (s : State) : Out := runTotal .uArmed (fun t => { t with astate := .armed }) s

/-- `U_DISARMED` (R82): `ASTATE <- Disarmed`. -/
def execUDisarmed (s : State) : Out := runTotal .uDisarmed (fun t => { t with astate := .disarmed }) s

end Sys2Proof.Machine
end

