-- ==== Sys2Proof/Machine/Backend.lean ====
section
/-!
DEFINITION. The counter backend's μops (spec/40_counter_backend.md R66 to R78).
-/

namespace Sys2Proof.Machine

/-- `U_READ_CNT` (R66; RTC only): `RESULT <- zext_32(COUNTER)`. -/
def execUReadCnt (s : State) : Out := runTotal .uReadCnt (fun t => { t with result := t.counter }) s

/-- `U_CAPTURE` (R67; CC only): `CAPTURE <- COUNTER`. -/
def execUCapture (s : State) : Out := runTotal .uCapture (fun t => { t with capture := t.counter }) s

/-- `U_READ_CAP` (R68; CC only): `RESULT <- zext_32(CAPTURE)`. -/
def execUReadCap (s : State) : Out := runTotal .uReadCap (fun t => { t with result := t.capture }) s

/-- `U_ARM_ARG` (R70): `ArmCompare(trunc_W(SEQ_ARG))`. -/
def execUArmArg (s : State) : Out := runTotal .uArmArg (fun t => armCompare (deadline t) t) s

/-- `U_ARM_PER` (R71): `ArmCompare(add_W(COMPARE, PERIOD))`. -/
def execUArmPer (s : State) : Out :=
  runTotal .uArmPer (fun t => armCompare (addW (width t.cfg) t.compare t.cfg.period) t) s

/-- `U_CLR` (R73): `PENDING <- 0`. -/
def execUClr (s : State) : Out := runTotal .uClr (fun t => { t with pending := false }) s

/-- `U_IE1` (R74): `IE <- 1`. -/
def execUIe1 (s : State) : Out := runTotal .uIe1 (fun t => { t with ie := true }) s

/-- `U_IE0` (R75): `IE <- 0`. -/
def execUIe0 (s : State) : Out := runTotal .uIe0 (fun t => { t with ie := false }) s

/-- `U_QIE` (R76; RTC only): `RESULT <- zext_32(IE)`. -/
def execUQie (s : State) : Out := runTotal .uQie (fun t => { t with result := boolWord t.ie }) s

/-- `U_QSHADOW` (R77; CC only): 1 iff `ASTATE == Armed`, never from `IE`. -/
def execUQshadow (s : State) : Out :=
  runTotal .uQshadow (fun t => { t with result := boolWord (decide (t.astate = .armed)) }) s

/-- `U_RDCMP` (R78): `RESULT <- zext_32(COMPARE)`. -/
def execURdcmp (s : State) : Out := runTotal .uRdcmp (fun t => { t with result := t.compare }) s

end Sys2Proof.Machine
end

