-- ==== Sys2Proof/Machine/ModeSelector.lean ====
section
/-!
DEFINITION. The mode selector's configuration checks (spec/42_mode_selector.md R92 to R96).
-/

namespace Sys2Proof.Machine

/-- `ValidateConfig()`: the first check that fails, as its fault code and info; none if the configuration is accepted. -/
def validateConfig (c : Config) : Option (Byte × BitVec 24) :=
  if c.backendSel ≠ 0 ∧ c.backendSel ≠ 1 then some (0x01, c.backendSel.setWidth 24)
  else if c.modeSel ≠ 0 ∧ c.modeSel ≠ 1 then some (0x02, c.modeSel.setWidth 24)
  else if c.modeSel = 1 ∧ c.lookahead.toNat < (floorOf c).toNat then some (0x03, c.lookahead.extractLsb' 0 24)
  else if c.modeSel = 0 ∧ (c.period = 0 ∨ 2 ^ width c ≤ c.period.toNat) then some (0x04, c.period.extractLsb' 0 24)
  else none

end Sys2Proof.Machine
end

