-- ==== Sys2Proof/Machine/Facade.lean ====
section
/-!
DEFINITION. The facade's commands INIT, GET_COUNTER, CBRET, STATUS and INFO (spec/43_facade.md R107, R109, R111, R113,
R115) and their μops (R108, R112, R114, R116).
-/

namespace Sys2Proof.Machine

/-- `INIT` (R107): `[U_INIT]` for every `BACKEND_SEL`. -/
def execInit (s : State) : Out := issue 0x01 [.uInit] s

/-- `GET_COUNTER` (R109): the live count on RTC, capture then read otherwise. -/
def execGetCounter (s : State) : Out :=
  issue 0x02 (if s.cfg.backendSel = 0 then [.uReadCnt] else [.uCapture, .uReadCap]) s

/-- `CBRET` (R111). -/
def execCbret (s : State) : Out := issue 0x08 [.uCbret] s

/-- `STATUS` (R113). -/
def execStatus (s : State) : Out := issue 0x09 [.uStatus] s

/-- `INFO` (R115). -/
def execInfo (s : State) : Out := issue 0x0A [.uInfo] s

/-- The one-time setup of R108, after the configuration is accepted. -/
def setUp (s : State) : State :=
  { s with
    ie := false
    pending := false
    near := false
    astate := .disarmed
    run := true
    initDone := true
    result := 0 }

/-- `U_INIT` (R108): a rejected configuration raises its fault and changes nothing else (R92). -/
def execUInit (s : State) : Out :=
  runUop .uInit (fun t => match validateConfig t.cfg with
    | some f => .error f
    | none => .ok (setUp t)) s

/-- `U_CBRET` (R112): `CTX <- Normal`. -/
def execUCbret (s : State) : Out := runTotal .uCbret returnFromCallback s

/-- `U_STATUS` (R114). -/
def execUStatus (s : State) : Out := runTotal .uStatus (fun t => { t with result := statusWord t }) s

/-- `U_INFO` (R116): an item above 5 raises ILLEGAL_ARG with info `k[23:0]`. -/
def execUInfo (s : State) : Out :=
  runUop .uInfo (fun t => match infoItem t.cfg t.seqArg with
    | some v => .ok { t with result := v }
    | none => .error (0x15, t.seqArg.extractLsb' 0 24)) s

end Sys2Proof.Machine
end

