-- ==== Sys2Proof/Machine/Service.lean ====
section
/-!
DEFINITION. The notification μop of the service sequences (spec/60_exceptions.md R123).
-/

namespace Sys2Proof.Machine

/-- `U_NOTIFY` (R123): the notification, and the Callback context. -/
def execUNotify (s : State) : Out := runTotal .uNotify enterCallback s

end Sys2Proof.Machine
end

