-- ==== Sys2Proof/Machine/Dispatch.lean ====
section
/-!
DEFINITION. One arm per instruction: its meaning.
-/

namespace Sys2Proof.Machine

def exec (i : Instr) (s : State) : Host.Outcome State Fault Refusal :=
  match i with
  | .init => Sys2Proof.Machine.execInit s
  | .getCounter => Sys2Proof.Machine.execGetCounter s
  | .start => Sys2Proof.Machine.execStart s
  | .stop => Sys2Proof.Machine.execStop s
  | .set => Sys2Proof.Machine.execSet s
  | .get => Sys2Proof.Machine.execGet s
  | .isActive => Sys2Proof.Machine.execIsActive s
  | .cbret => Sys2Proof.Machine.execCbret s
  | .status => Sys2Proof.Machine.execStatus s
  | .info => Sys2Proof.Machine.execInfo s
  | .uInit => Sys2Proof.Machine.execUInit s
  | .uReadCnt => Sys2Proof.Machine.execUReadCnt s
  | .uCapture => Sys2Proof.Machine.execUCapture s
  | .uReadCap => Sys2Proof.Machine.execUReadCap s
  | .uArmArg => Sys2Proof.Machine.execUArmArg s
  | .uArmPer => Sys2Proof.Machine.execUArmPer s
  | .uClr => Sys2Proof.Machine.execUClr s
  | .uIe1 => Sys2Proof.Machine.execUIe1 s
  | .uIe0 => Sys2Proof.Machine.execUIe0 s
  | .uQie => Sys2Proof.Machine.execUQie s
  | .uQshadow => Sys2Proof.Machine.execUQshadow s
  | .uRdcmp => Sys2Proof.Machine.execURdcmp s
  | .uArmed => Sys2Proof.Machine.execUArmed s
  | .uDisarmed => Sys2Proof.Machine.execUDisarmed s
  | .uNotify => Sys2Proof.Machine.execUNotify s
  | .uCbret => Sys2Proof.Machine.execUCbret s
  | .uStatus => Sys2Proof.Machine.execUStatus s
  | .uInfo => Sys2Proof.Machine.execUInfo s

end Sys2Proof.Machine
end

