-- ==== Sys2Proof/Machine/Port.lean ====
section
/-!
DEFINITION. The port window: what a bus access means (spec/20_memory.md R35 to R38), the accesses other than a write of
CMD (R38, R40, R41, R44), and the CMD words that are no command (spec/30_encoding.md R53, R54; spec/43_facade.md R103).
-/

namespace Sys2Proof.Machine

/-- A port register a host can read (R36). -/
inductive PortReg where
  /-- `ARG`, offset 0x04. -/
  | arg
  /-- `RVAL`, offset 0x08. -/
  | rval
  /-- `RSTAT`, offset 0x0C. -/
  | rstat
  deriving DecidableEq, Repr

/-- What a bus access asks of the block. -/
inductive PortAction where
  /-- A 32-bit write of `CMD`. -/
  | command (w : Word)
  /-- A 32-bit write of `ARG`. -/
  | writeArg (v : Word)
  /-- A 32-bit read of `ARG`, `RVAL` or `RSTAT`. -/
  | readReg (r : PortReg)
  /-- A bad access and its info (R38). -/
  | bad (info : BitVec 24)
  /-- The access starts outside the window (R36). -/
  | outside
  /-- No bus access moves this many bytes (R38). -/
  | notBus (size : Nat)
  deriving DecidableEq, Repr

/-- A read of `size` bytes at a window offset (R36, R38). -/
def readAction (offset size : Nat) : PortAction :=
  if size = 4 ∧ offset = 4 then .readReg .arg
  else if size = 4 ∧ offset = 8 then .readReg .rval
  else if size = 4 ∧ offset = 12 then .readReg .rstat
  else .bad (badInfo offset size false)

/-- A write of bytes at a window offset; the word of a 32-bit write is little-endian (R36 to R38). -/
def writeAction (offset : Nat) : List Byte → PortAction
  | [b0, b1, b2, b3] =>
    if offset = 0 then .command (leWord b0 b1 b2 b3)
    else if offset = 4 then .writeArg (leWord b0 b1 b2 b3)
    else .bad (badInfo offset 4 true)
  | bytes => .bad (badInfo offset bytes.length true)

/-- The address an access starts at. -/
def accessAddr : Access → Nat
  | .read addr _ => addr
  | .write addr _ => addr

/-- The number of bytes an access moves. -/
def accessSize : Access → Nat
  | .read _ size => size
  | .write _ bytes => bytes.length

/-- Whether an access is a store. -/
def accessIsWrite : Access → Bool
  | .read _ _ => false
  | .write _ _ => true

/-- What an access at a platform address asks of the block with this `BASE` (R35, R36). -/
def portAction (c : Config) (a : Access) : PortAction :=
  if a.wf = false then .notBus (accessSize a)
  else if accessAddr a < c.base ∨ c.base + 16 ≤ accessAddr a then .outside
  else match a with
    | .read addr size => readAction (addr - c.base) size
    | .write addr bytes => writeAction (addr - c.base) bytes

/-- A 32-bit write of `ARG`: `ARG[CTX] <- v`, no other effect (R40). -/
def writeArg (v : Word) (s : State) : State :=
  { s with
    normal := if s.ctx = .callback then s.normal else { s.normal with arg := v }
    callback := if s.ctx = .callback then { s.callback with arg := v } else s.callback }

/-- The value a 32-bit read returns: the register of the bank of `CTX` (R40, R41). -/
def portValue (r : PortReg) (s : State) : Word :=
  match r with
  | .arg => (bankOf s s.ctx).arg
  | .rval => (bankOf s s.ctx).rval
  | .rstat => (bankOf s s.ctx).rstat

/-- A 32-bit read: the value goes to the host, and no register changes (R40 to R42). -/
def readPort (r : PortReg) (s : State) : State := { s with lastRead := some (portValue r s) }

/-- A bad access: `SEQ_CTX <- CTX; raise Fault(0x16, info)` (R38); after a fault it changes nothing (R44). -/
def badAccess (info : BitVec 24) (s : State) : State :=
  if s.fault = 0 then raiseFault 0x16 info (enterIssue s) else s

/-- The block's own fault for bytes that are no command (R53, R54) or no μop (never dispatched). -/
def rejectFault : Reject → Byte × BitVec 24
  | .reservedBits rsv => (0x13, rsv)
  | .illegalOpcode opc => (0x12, opc.setWidth 24)
  | .notAUop code => (0x12, code.setWidth 24)
  | .wrongLength => (0x12, 0)

/-- The dispatch of a CMD word that is no command: after a fault the record is answered (R44), else RESERVED_BITS or
ILLEGAL_OPCODE is raised (R103). -/
def rejectCommand (r : Reject) (s : State) : State :=
  if s.fault ≠ 0 then answerFault s else raiseFault (rejectFault r).1 (rejectFault r).2 (enterIssue s)

/-- The byte the host reads at a window offset in the current context: byte `4k + i` holds bits `[8i+7 : 8i]` of the
register at offset `4k` (R37). None at CMD, which is write only, and outside the window (R36). -/
def windowByte (s : State) (offset : Nat) : Option Byte :=
  if offset < 4 ∨ 16 ≤ offset then none
  else if offset < 8 then some ((portValue .arg s).extractLsb' (8 * (offset - 4)) 8)
  else if offset < 12 then some ((portValue .rval s).extractLsb' (8 * (offset - 8)) 8)
  else some ((portValue .rstat s).extractLsb' (8 * (offset - 12)) 8)

end Sys2Proof.Machine
end

