-- ==== Sys2Proof/Machine/Agents.lean ====
section
/-!
DEFINITION. The agents' moves, each one atomic step (spec/10_state.md R15, spec/20_memory.md R43, R46), and which agent
moves next: plain data of the state, its schedule, and a free value where the schedule names none (log entries 2 and 3).
-/

namespace Sys2Proof.Machine

/-- The next move: the head of the schedule, which it leaves; where the schedule is empty, that of a free agent. -/
def takeMove (s : State) : Move × State :=
  match s.schedule with
  | m :: rest => (m, { s with schedule := rest })
  | [] => ((Config.freeAgent s.draws).move, { s with draws := s.draws + 1 })

/-- The sequencer's move (R105): pop the head of `SEQ` and run it; no step while `SEQ` is empty. -/
def sequencerStep (s : State) : Out :=
  match s.seq with
  | [] => .next s
  | c :: rest =>
    match decodeUop c with
    | .ok i => exec i { s with seq := rest }
    | .error _ => .fault (.notAUop c)

/-- The host's bus access, when it is not held (R36 to R41). -/
def hostAccess (a : Access) (s : State) : Out :=
  match portAction s.cfg a with
  | .command w =>
    match decodeCmd w with
    | .ok i => exec i s
    | .error r => .next (rejectCommand r s)
  | .writeArg v => .next (writeArg v s)
  | .readReg r => .next (readPort r s)
  | .bad info => .next (badAccess info s)
  | .outside => .fault (.outsideWindow (accessAddr a))
  | .notBus size => .fault (.notABusAccess size)

/-- One agent's move. A move that is not enabled changes nothing; a host access that is held stays the next move, and the
sequencer, which lifts the hold, moves in its place (R43). -/
def act (m : Move) (s : State) : Out :=
  match m with
  | .tick => .next (tick s)
  | .sequencer => sequencerStep s
  | .accept => .next (accept s)
  | .host a =>
    if held s = true then sequencerStep { s with schedule := .host a :: s.schedule } else hostAccess a s

end Sys2Proof.Machine
end

