-- ==== Sys2Proof/Machine/Step.lean ====
section
/-!
DEFINITION. One step of the machine, and the state whose next step runs a given instruction.
-/

namespace Sys2Proof.Machine

/-- One step of the machine. -/
def step (s : State) : Host.Outcome State Fault Refusal := act (takeMove s).1 (takeMove s).2

/-- The state in which the very next step runs the instruction whose bits are `w`: a μop becomes the head of `SEQ` and the
sequencer moves; a command becomes the host's 32-bit write of CMD, with nothing that holds the host. -/
def State.withFetchWord (s : State) (nbits w : Nat) : State :=
  if nbits ≤ 8 then
    { s with schedule := .sequencer :: s.schedule, seq := BitVec.ofNat 8 w :: s.seq }
  else
    { s with
      schedule := .host (.write s.cfg.base (tableBytes nbits w)) :: s.schedule
      seq := []
      ctx := if s.ctx = .service then .normal else s.ctx }

end Sys2Proof.Machine
end

