-- ==== Sys2Proof/Safety.lean ====
section
/-!
DEFINITION. What claims are stated in: a run that counts (spec/60_exceptions.md R119, spec/70_reset_and_hazards.md R151),
paths of steps, the event counts, the host's look-ahead duty (R139, R150), and the machine's invariant.
-/

namespace Sys2Proof.Safety

open Sys2Proof.Machine

/-- The block is not faulted: the premise of every claim (R119). -/
def safe (s : State) : Bool := decide (s.fault = 0)

/-- The block's part of END (R151): no sequence runs, and the context is Normal. -/
def quiescent (s : State) : Bool := s.seq.isEmpty && decide (s.ctx = .normal)

/-- The move is an access of the host. -/
def hostMove : Move → Bool
  | .host _ => true
  | _ => false

/-- The host has made its last access (R151): its program, the host moves of the schedule (R131, log entry 21), has none left.
An access that is held is still scheduled. -/
def hostDone (s : State) : Bool := s.schedule.all fun m => !hostMove m

/-- The conditions of END (R151). The last access has completed: a CMD write completes with its sequence (R39), and every
other access in its own step. -/
def atEnd (s : State) : Bool := hostDone s && quiescent s

/-- The host's duty at a START or SET of `d`, as R139 and R150 word it: the count at the issue is more than the bound on the
ticks of the sequence, and more than `MISS_WINDOW`, away from `d`. -/
def lookaheadKept (bound : Nat) (d : Word) (s : State) : Prop :=
  max bound s.cfg.missWindow < mdiffW (width s.cfg) d s.counter

/-- `k` steps, stopping at a fault or a refusal. -/
def runSteps : Nat → State → Out
  | 0, s => .next s
  | k + 1, s =>
    match step s with
    | .next t => runSteps k t
    | .fault f => .fault f
    | .refused r => .refused r

/-- The environment schedules these moves next. -/
def withMoves (ms : List Move) (s : State) : State := { s with schedule := ms ++ s.schedule }

/-- The host's 32-bit write of a command's word to CMD. -/
def cmdWrite (s : State) (i : Instr) : Move := .host (.write s.cfg.base (wordBytes (encodeCmd i)))

/-- `n` ticks. -/
def ticks (n : Nat) : List Move := List.replicate n .tick

/-- Moves of the counter and of the interrupt acceptance only, in any order and number. -/
def ticksAndAccepts (ms : List Move) : Bool := ms.all fun m => decide (m = .tick) || decide (m = .accept)

/-- Sequencer moves, each after the moves listed for it. -/
def sequencerAfter (ls : List (List Move)) : List Move := ls.flatMap fun l => l ++ [.sequencer]

/-- The count after `n` ticks. -/
def countAfter (s : State) (n : Nat) : Word := BitVec.ofNat 32 ((s.counter.toNat + n) % 2 ^ width s.cfg)

/-- A command written now is not held and not turned away by a fault (R43, R44). -/
def ready (s : State) : Bool := !held s && decide (s.fault = 0)

/-- The state after a raised fault, written out (R117): nothing after a first fault; else the record, its answer in the bank
of `SEQ_CTX`, and the sequence ended. -/
def faulted (code : Byte) (info : BitVec 24) (s : State) : State :=
  if s.fault ≠ 0 then s else
    { s with
      fault := code
      faultInfo := info
      seq := []
      normal := if s.seqCtx = .normal then { s.normal with rval := 0, rstat := info ++ code } else s.normal
      callback := if s.seqCtx = .callback then { s.callback with rval := 0, rstat := info ++ code } else s.callback }

/-- A path of steps, each of whose moves is allowed by `ok`. -/
inductive Path (ok : State → Move → Bool) : State → State → Prop where
  /-- No step. -/
  | refl (s : State) : Path ok s s
  /-- One more step. -/
  | snoc {s t u : State} : Path ok s t → ok t (takeMove t).1 = true → step t = .next u → Path ok s u

/-- The run from `s` ENDS in `t` (R151): `t` is the first state of the run with the conditions of END. What comes after is no
part of the run. -/
def Ends (s t : State) : Prop := Path (fun u _ => !atEnd u) s t ∧ atEnd t = true

/-- What a run's observation claims (R151, R119): the run ENDS, with no fault, in a state (its HIST among it) with `P`. -/
def Observed (P : State → Prop) (s : State) : Prop := ∃ t, Ends s t ∧ safe t = true ∧ P t

/-- Every move. -/
def anyMove (_ : State) (_ : Move) : Bool := true

/-- Any move but a command that may write `COMPARE`, `IE` or `ASTATE` (R101: no START, SET or STOP is issued). -/
def noAlarmCommand (s : State) : Move → Bool
  | .host a =>
    match portAction s.cfg a with
    | .command w =>
      match decodeCmd w with
      | .ok .start => false
      | .ok .set => false
      | .ok .stop => false
      | _ => true
    | _ => true
  | _ => true

/-- A state some run reaches from RESET, for some instance with parameters in range, some draws and some schedule. -/
def Reachable (s : State) : Prop :=
  ∃ c d q, c.wf = true ∧ Path anyMove (State.resetWith c d q) s

/-- The events that are NOTIFY. -/
def notifyCount (h : List Event) : Nat := h.countP fun e => decide (e = .notify)

/-- The events that are MATCH. -/
def matchCount (h : List Event) : Nat := h.countP fun e => match e with
  | .matched _ => true
  | _ => false

/-- The codes of a list of μops. -/
def codes (q : List Instr) : List Byte := q.map Instr.code

/-- The sequences R61 lets a command load, on this instance's backend. -/
def commandSequences (c : Config) : List (List Instr) :=
  [[.uInit], if c.backendSel = 0 then [.uReadCnt] else [.uCapture, .uReadCap], [.uArmArg, .uClr, .uIe1, .uArmed],
   [.uIe0, .uClr, .uDisarmed], [.uArmArg], [.uRdcmp], if c.backendSel = 0 then [.uQie] else [.uQshadow], [.uCbret],
   [.uStatus], [.uInfo]]

/-- `SEQ` is what is left of a sequence of R61, of a command in the context that issued it, or of the service. -/
def sequenceFits (s : State) : Prop :=
  s.seq = [] ∨
  (s.ctx ≠ .service ∧ s.seqCtx = s.ctx ∧ ∃ q ∈ commandSequences s.cfg, s.seq <:+ codes q) ∨
  (s.ctx = .service ∧ s.seqCtx = .service ∧ s.seq <:+ codes (serviceSequence s.cfg))

/-- R88 with the sequence in progress taken into account: between U_IE1 and U_ARMED the enable is on, between U_IE0 and
U_DISARMED it is off, and in every other state `IE = 1` iff `ASTATE = Armed`. -/
def enableAgrees (s : State) : Prop :=
  if s.seq = codes [.uArmed] then s.ie = true
  else if s.seq ∈ [codes [.uClr, .uDisarmed], codes [.uDisarmed], codes [.uClr, .uDisarmed, .uNotify],
      codes [.uDisarmed, .uNotify]] then s.ie = false
  else (s.ie = true ↔ s.astate = .armed)

/-- The nonzero fault codes of R118 that R118 does not call unreachable. -/
def faultCodes : List Byte := [0x01, 0x02, 0x03, 0x04, 0x10, 0x11, 0x12, 0x13, 0x14, 0x15, 0x16]

/-- The machine's invariant, kept by every step. -/
structure Inv (s : State) : Prop where
  /-- `COUNTER` is W bits (R18). -/
  counterFits : s.counter.toNat < 2 ^ width s.cfg
  /-- `COMPARE` is W bits (R19). -/
  compareFits : s.compare.toNat < 2 ^ width s.cfg
  /-- `CAPTURE` is W bits (R22). -/
  captureFits : s.capture.toNat < 2 ^ width s.cfg
  /-- `NEAR` stays 0 when `MISS_WINDOW = 0` (R23). -/
  nearWindow : s.cfg.missWindow = 0 → s.near = false
  /-- `FAULT` is 0, with no info, or a code of R118. -/
  faultCode : (s.fault = 0 ∧ s.faultInfo = 0) ∨ s.fault ∈ faultCodes
  /-- A fault ends the sequence (R117). -/
  faultEnds : s.fault ≠ 0 → s.seq = []
  /-- After a configuration fault the block is not initialised (R98). -/
  configFault : s.fault ∈ ([0x01, 0x02, 0x03, 0x04] : List Byte) → s.initDone = false
  /-- `RUN` and `INIT_DONE` are both written by a successful `U_INIT` only (R24, R26). -/
  runIsInit : s.run = s.initDone
  /-- `INIT_DONE = 1` implies the configuration passed (R122). -/
  initChecked : s.initDone = true → validateConfig s.cfg = none
  /-- Before INIT: no interrupt, Disarmed, Normal, no event, and no sequence but INIT's, STATUS's or INFO's (R103, R136). -/
  beforeInit : s.initDone = false → s.ie = false ∧ s.astate = .disarmed ∧ s.ctx = .normal ∧ s.near = false ∧ s.hist = [] ∧
    s.seq ∈ [[], codes [.uInit], codes [.uStatus], codes [.uInfo]]
  /-- `U_INIT` runs only before INIT is done (R103). -/
  initOnce : s.seq = codes [.uInit] → s.initDone = false
  /-- The Service context is left by the last μop of the service (R123). -/
  serviceBusy : s.ctx = .service → s.seq ≠ []
  /-- `SEQ` holds what is left of a sequence of R61. -/
  sequence : sequenceFits s
  /-- R88. -/
  enable : enableAgrees s

/-- A service that has cleared the latch it was accepted for, and has not notified yet. -/
def owed (s : State) : Nat := if s.ctx = .service ∧ s.seq ≠ codes (serviceSequence s.cfg) then 1 else 0

/-- The matches latched cover the notifications given, the one in progress, and the latch still pending (R123: NOTIFY at
most once per match); a service that has not cleared yet still has its latch. -/
structure MatchBudget (s : State) : Prop where
  /-- The count. -/
  covered : s.initDone = true →
    notifyCount s.hist + owed s + (if s.pending = true then 1 else 0) ≤ matchCount s.hist
  /-- Until its first `U_CLR` the service has its latch. -/
  latchHeld : s.ctx = .service → s.seq = codes (serviceSequence s.cfg) → s.pending = true

end Sys2Proof.Safety
end

