-- ==== Sys2Proof/Certificates/Slice0/Obligations.lean ====
section
/-!
DEFINITION. The statements for the provers. Each docstring names the rules of spec/ it formalises.
-/

open Sys2Proof Sys2Proof.Machine Sys2Proof.Safety

/-! ## Encoding -/

/-- Words written out from R51, R52 and R60, with the byte order of R37. -/
def Obligations.SpecWordsDecode : Prop :=
  decodeBytes [0x01, 0x00, 0x00, 0x00] = .ok .init ∧ decodeBytes [0x03, 0x00, 0x00, 0x00] = .ok .start ∧
  decodeBytes [0x0A, 0x00, 0x00, 0x00] = .ok .info ∧ decodeBytes [0x80] = .ok .uInit ∧
  decodeBytes [0x86] = .ok .uClr ∧ decodeBytes [0x91] = .ok .uInfo ∧
  decodeBytes [0x00, 0x00, 0x00, 0x03] = .error (.reservedBits 0x030000) ∧
  decodeBytes [0x80, 0x00, 0x00, 0x00] = .error (.illegalOpcode 0x80)

/-- Bytes decode to an instruction exactly when they are that instruction's bytes (R51, R52, R60). -/
def Obligations.DecodeIffEncode : Prop :=
  ∀ (bs : List Byte) (i : Instr), decodeBytes bs = .ok i ↔ bs = encode i

/-- The command words that are no command: reserved bits first, then the opcode (R53, R54). -/
def Obligations.IllegalWordsRejectedByName : Prop :=
  ∀ w : Word,
    (rsvField w ≠ 0 → decodeCmd w = .error (.reservedBits (rsvField w))) ∧
    (rsvField w = 0 → (opcField w = 0 ∨ 0x0B ≤ (opcField w).toNat) →
      decodeCmd w = .error (.illegalOpcode (opcField w))) ∧
    (rsvField w = 0 → 1 ≤ (opcField w).toNat → (opcField w).toNat ≤ 0x0A →
      ∃ i : Instr, i.isCommand = true ∧ i.code = opcField w ∧ decodeCmd w = .ok i)

/-! ## The step -/

/-- A CMD write that is not held runs the instruction its bytes decode to (R39, R103). -/
def Obligations.StepRunsWrittenCommand : Prop :=
  ∀ (s : State) (b0 b1 b2 b3 : Byte) (i : Instr) (rest : List Move),
    s.schedule = .host (.write s.cfg.base [b0, b1, b2, b3]) :: rest → held s = false →
    decodeBytes [b0, b1, b2, b3] = .ok i →
    step s = exec i { s with schedule := rest }

/-- The sequencer pops the head of SEQ and runs the μop its code decodes to (R105). -/
def Obligations.StepRunsSequencerHead : Prop :=
  ∀ (s : State) (c : Byte) (q : List Byte) (i : Instr) (rest : List Move),
    s.schedule = .sequencer :: rest → s.seq = c :: q → decodeBytes [c] = .ok i →
    step s = exec i { s with schedule := rest, seq := q }

/-- A host access has no step while BUSY (R43). How a scheduled one waits is the model's choice: it stays the next move and
the sequencer moves in its place (log entry 2), and a command's own meaning in a held state changes nothing (log entry 16). -/
def Obligations.HeldHostWaitsForSequencer : Prop :=
  (∀ (s : State) (a : Access) (c : Byte) (q : List Byte) (i : Instr) (rest : List Move),
    s.schedule = .host a :: rest → s.seq = c :: q → decodeBytes [c] = .ok i →
    step s = exec i { s with seq := q }) ∧
  (∀ (i : Instr) (s : State), i.isCommand = true → held s = true → exec i s = .next s)

/-- TICK (R64, R65), each branch, the two answers of the draw among them. The model's choices: with `RUN = 0`, where R64 has no
step, a scheduled tick uses up the schedule only (log entry 17), and the draw is the free value of the count of draws, which
it advances (log entry 4). -/
def Obligations.TickCountsAndLatchesArrival : Prop :=
  ∀ (s : State) (rest : List Move), s.schedule = .tick :: rest →
    (s.run = false → step s = .next { s with schedule := rest }) ∧
    (s.run = true → addW (width s.cfg) s.counter 1 ≠ s.compare →
      step s = .next { s with schedule := rest, counter := addW (width s.cfg) s.counter 1 }) ∧
    (s.run = true → addW (width s.cfg) s.counter 1 = s.compare → s.near = false →
      step s = .next { s with
        schedule := rest, counter := s.compare, pending := true, hist := s.hist ++ [.matched s.compare] }) ∧
    (s.run = true → addW (width s.cfg) s.counter 1 = s.compare → s.near = true →
      step s = if Config.freeBool s.draws = true
        then .next { s with
          schedule := rest, counter := s.compare, pending := true, near := false, draws := s.draws + 1,
          hist := s.hist ++ [.matched s.compare] }
        else .next { s with
          schedule := rest, counter := s.compare, near := false, draws := s.draws + 1,
          hist := s.hist ++ [.missed s.compare] })

/-- ACCEPT when enabled loads the service sequence of the mode and enters Service (R121, R122). Where R121 has no step, a
scheduled ACCEPT uses up the schedule only: the model's choice (log entry 17). -/
def Obligations.AcceptEntersServiceOnlyWhenEnabled : Prop :=
  ∀ (s : State) (rest : List Move), s.schedule = .accept :: rest →
    (s.fault = 0 → s.initDone = true → s.ctx = .normal → s.seq = [] → s.pending = true → s.ie = true →
      step s = .next { s with
        schedule := rest, ctx := .service, seqCtx := .service, seqOpc := 0, seqArg := 0, result := 0,
        seq := if s.cfg.modeSel = 0 then [0x86, 0x85, 0x8E] else [0x86, 0x88, 0x86, 0x8D, 0x8E] }) ∧
    (s.fault ≠ 0 ∨ s.initDone = false ∨ s.ctx ≠ .normal ∨ s.seq ≠ [] ∨ s.pending = false ∨ s.ie = false →
      step s = .next { s with schedule := rest })

/-- From a state of the invariant a step is never refused, and the only stops are accesses that are not the block's:
every access pattern to the block has a meaning (R131), and no sequence holds a code that is no μop (R60). -/
def Obligations.OnlyForeignAccessesStop : Prop :=
  ∀ s : State, Inv s →
    (∀ r : Refusal, step s ≠ .refused r) ∧
    (∀ f : Fault, step s = .fault f → ∃ a : Access, (takeMove s).1 = .host a ∧
      ((f = .notABusAccess (accessSize a) ∧ a.wf = false) ∨
       (f = .outsideWindow (accessAddr a) ∧ (accessAddr a < s.cfg.base ∨ s.cfg.base + 16 ≤ accessAddr a))))

/-! ## The port -/

/-- A 32-bit write of ARG writes `ARG[CTX]`, little-endian, and nothing else; a 32-bit read of ARG, RVAL or RSTAT returns the
register of the bank of CTX and changes no register; no command and no μop writes ARG (R37, R40 to R42). -/
def Obligations.PortUsesContextBank : Prop :=
  ∀ (s : State) (rest : List Move), held s = false →
    (∀ v : Word, s.schedule = .host (.write (s.cfg.base + 4) (wordBytes v)) :: rest →
      (s.ctx = .normal → step s = .next { s with schedule := rest, normal := { s.normal with arg := v } }) ∧
      (s.ctx = .callback → step s = .next { s with schedule := rest, callback := { s.callback with arg := v } })) ∧
    (s.schedule = .host (.read (s.cfg.base + 4) 4) :: rest → step s = .next { s with
      schedule := rest, lastRead := some (if s.ctx = .callback then s.callback.arg else s.normal.arg) }) ∧
    (s.schedule = .host (.read (s.cfg.base + 8) 4) :: rest → step s = .next { s with
      schedule := rest, lastRead := some (if s.ctx = .callback then s.callback.rval else s.normal.rval) }) ∧
    (s.schedule = .host (.read (s.cfg.base + 12) 4) :: rest → step s = .next { s with
      schedule := rest, lastRead := some (if s.ctx = .callback then s.callback.rstat else s.normal.rstat) }) ∧
    (∀ (i : Instr) (t : State), exec i s = .next t → t.normal.arg = s.normal.arg ∧ t.callback.arg = s.callback.arg)

/-- The bytes a 32-bit read returns are the bytes of the window at its address, least significant first; CMD and the
addresses outside the window show no byte (R36, R37). -/
def Obligations.WindowBytesAreLittleEndian : Prop :=
  ∀ (s : State) (k : Nat) (rest : List Move), held s = false → (k = 4 ∨ k = 8 ∨ k = 12) →
    s.schedule = .host (.read (s.cfg.base + k) 4) :: rest →
    ∃ (t : State) (b0 b1 b2 b3 : Byte), step s = .next t ∧ t.lastRead = some (b3 ++ b2 ++ b1 ++ b0) ∧
      windowByte s k = some b0 ∧ windowByte s (k + 1) = some b1 ∧ windowByte s (k + 2) = some b2 ∧
      windowByte s (k + 3) = some b3 ∧
      (∀ j, j < 4 ∨ 16 ≤ j → windowByte s j = none) ∧ ∀ j, windowByte t j = windowByte s j

/-- Every access to the window but a 32-bit write of CMD or ARG and a 32-bit read of ARG, RVAL or RSTAT raises BAD_ACCESS,
and has no other effect; after a fault it changes nothing (R38, R44). -/
def Obligations.BadAccessOnlyFaults : Prop :=
  ∀ (s : State) (a : Access) (off : Nat) (rest : List Move),
    s.schedule = .host a :: rest → held s = false → a.wf = true →
    accessAddr a = s.cfg.base + off → off < 16 →
    (∀ bs, a ≠ .write s.cfg.base bs ∨ bs.length ≠ 4) →
    (∀ bs, a ≠ .write (s.cfg.base + 4) bs ∨ bs.length ≠ 4) →
    (∀ k ∈ [4, 8, 12], a ≠ .read (s.cfg.base + k) 4) →
    (s.fault ≠ 0 → step s = .next { s with schedule := rest }) ∧
    (s.fault = 0 → ∃ info : BitVec 24,
      info.toNat = off + (if accessIsWrite a = true then 256 else 0) + 4096 * accessSize a ∧
      (s.ctx = .normal → step s = .next { s with
        schedule := rest, seqCtx := .normal, fault := 0x16, faultInfo := info,
        normal := { s.normal with rval := 0, rstat := info ++ (0x16 : Byte) } }) ∧
      (s.ctx = .callback → step s = .next { s with
        schedule := rest, seqCtx := .callback, fault := 0x16, faultInfo := info,
        callback := { s.callback with rval := 0, rstat := info ++ (0x16 : Byte) } }))

/-- After a fault every 32-bit write of CMD, a command or not, performs no command: it writes the fault record to the
response bank of CTX (R44, R119). -/
def Obligations.FaultedBlockAnswersRecord : Prop :=
  ∀ (s : State) (w : Word) (rest : List Move),
    s.schedule = .host (.write s.cfg.base (wordBytes w)) :: rest → held s = false → s.fault ≠ 0 →
    (s.ctx = .normal → step s = .next { s with
      schedule := rest, seqCtx := .normal, normal := { s.normal with rval := 0, rstat := s.faultInfo ++ s.fault } }) ∧
    (s.ctx = .callback → step s = .next { s with
      schedule := rest, seqCtx := .callback,
      callback := { s.callback with rval := 0, rstat := s.faultInfo ++ s.fault } })

/-- A CMD word that is no command raises RESERVED_BITS with info `w[31:8]`, or ILLEGAL_OPCODE with the opcode as info, in
the bank of the issuing context, and nothing else changes (R53, R54, R103, R117). -/
def Obligations.IllegalCommandWordFaults : Prop :=
  ∀ (s : State) (w : Word) (rest : List Move) (code : Byte) (info : BitVec 24),
    s.schedule = .host (.write s.cfg.base (wordBytes w)) :: rest → ready s = true →
    (rsvField w ≠ 0 ∧ code = 0x13 ∧ info = rsvField w ∨
     rsvField w = 0 ∧ (opcField w = 0 ∨ 0x0B ≤ (opcField w).toNat) ∧ code = 0x12 ∧
       info = (opcField w).setWidth 24) →
    (s.ctx = .normal → step s = .next { s with
      schedule := rest, seqCtx := .normal, fault := code, faultInfo := info,
      normal := { s.normal with rval := 0, rstat := info ++ code } }) ∧
    (s.ctx = .callback → step s = .next { s with
      schedule := rest, seqCtx := .callback, fault := code, faultInfo := info,
      callback := { s.callback with rval := 0, rstat := info ++ code } })

/-- The whole dispatch of a CMD write that is not held, its checks in order, the first that fails raising its fault: after a
fault the record, RESERVED_BITS, ILLEGAL_OPCODE, DOUBLE_INIT, NOT_INIT, BAD_CBRET; else the operand latched and the
command's sequence loaded (R61, R103). The faulting cases write the record and the bank of CTX only (R117). -/
def Obligations.DispatchChecksInOrder : Prop :=
  ∀ (s : State) (w : Word) (rest : List Move) (opc : Byte),
    s.schedule = .host (.write s.cfg.base (wordBytes w)) :: rest → held s = false → opc = opcField w →
    let after : State := { s with schedule := rest, seqCtx := s.ctx }
    let sequences : List (Byte × List Byte) :=
      [(0x01, [0x80]), (0x03, [0x84, 0x86, 0x87, 0x8C]), (0x04, [0x88, 0x86, 0x8D]), (0x05, [0x84]), (0x06, [0x8B]),
       (0x08, [0x8F]), (0x09, [0x90]), (0x0A, [0x91])] ++
      (if s.cfg.backendSel = 0 then [(0x02, [0x81]), (0x07, [0x89])] else []) ++
      (if s.cfg.backendSel = 1 then [(0x02, [0x82, 0x83]), (0x07, [0x8A])] else [])
    if s.fault ≠ 0 then step s = .next { after with
      normal := (if s.ctx = .normal then { s.normal with rval := 0, rstat := s.faultInfo ++ s.fault } else s.normal),
      callback := (if s.ctx = .callback then { s.callback with rval := 0, rstat := s.faultInfo ++ s.fault }
        else s.callback) }
    else if rsvField w ≠ 0 then step s = .next (faulted 0x13 (rsvField w) after)
    else if opc = 0 ∨ 0x0B ≤ opc.toNat then step s = .next (faulted 0x12 (opc.setWidth 24) after)
    else if opc = 0x01 ∧ s.initDone = true then step s = .next (faulted 0x11 0 after)
    else if opc ≠ 0x01 ∧ opc ≠ 0x09 ∧ opc ≠ 0x0A ∧ s.initDone = false then
      step s = .next (faulted 0x10 (opc.setWidth 24) after)
    else if opc = 0x08 ∧ s.ctx ≠ .callback then step s = .next (faulted 0x14 0 after)
    else ∀ q : List Byte, (opc, q) ∈ sequences → step s = .next { after with
      seqOpc := opc, seqArg := (if s.ctx = .callback then s.callback.arg else s.normal.arg), result := 0, seq := q }

/-! ## Reset and the invariants -/

/-- After RESET every register the table gives a value has it, for every instance, draws and schedule (R34, R135). The
values of the registers the table leaves drawn are not stated. -/
def Obligations.ResetLeavesTableValues : Prop :=
  ∀ (c : Config) (d : Draws) (q : List Move),
    let s := State.resetWith c d q
    s.cfg = c ∧ s.ie = false ∧ s.near = false ∧ s.run = false ∧ s.astate = .disarmed ∧ s.initDone = false ∧
    s.fault = 0 ∧ s.faultInfo = 0 ∧ s.ctx = .normal ∧ s.normal.rstat = 0 ∧ s.callback.rstat = 0 ∧ s.seq = [] ∧
    s.seqArg = 0 ∧ s.seqOpc = 0 ∧ s.result = 0 ∧ s.seqCtx = .normal ∧ s.hist = []

/-- The invariants hold after RESET. -/
def Obligations.ResetMeetsInvariants : Prop :=
  (∀ (c : Config) (d : Draws) (q : List Move),
    Inv (State.resetWith c d q) ∧ MatchBudget (State.resetWith c d q)) ∧
  Inv State.reset ∧ MatchBudget State.reset

/-- Every step keeps the invariant: the widths, the shape of SEQ, the fault record, what holds before INIT, and R88. -/
def Obligations.StepKeepsInvariant : Prop :=
  ∀ s t : State, Inv s → step s = .next t → Inv t

/-- Every step keeps the count of matches ahead of the count of notifications. -/
def Obligations.StepKeepsMatchBudget : Prop :=
  ∀ s t : State, Inv s → MatchBudget s → step s = .next t → MatchBudget t

/-- In every reachable state with `SEQ = []`, `IE = 1` iff `ASTATE = Armed` (R88). -/
def Obligations.IdleEnableIffArmed : Prop :=
  ∀ s : State, Reachable s → s.seq = [] → (s.ie = true ↔ s.astate = .armed)

/-- No interrupt while Disarmed: a step from a reachable state that enters the service is taken with `ASTATE = Armed`
(R91). -/
def Obligations.NoInterruptWhileDisarmed : Prop :=
  ∀ s t : State, Reachable s → step s = .next t → s.ctx ≠ .service → t.ctx = .service → s.astate = .armed

/-- In every reachable state there are at most as many NOTIFY events as MATCH events (R123: at most once per match). -/
def Obligations.NotifyAtMostOncePerMatch : Prop :=
  ∀ s : State, Reachable s → notifyCount s.hist ≤ matchCount s.hist

/-! ## Who writes what -/

/-- After a fault the record is kept, no service starts, and no NOTIFY is given (R119). -/
def Obligations.FaultIsStickyAndSilent : Prop :=
  ∀ s t : State, Inv s → s.fault ≠ 0 → step s = .next t →
    t.fault = s.fault ∧ t.faultInfo = s.faultInfo ∧ t.ctx = s.ctx ∧ t.seq = [] ∧ notifyCount t.hist = notifyCount s.hist

/-- COUNTER is written only by the tick (R18). -/
def Obligations.OnlyTickWritesCounter : Prop :=
  ∀ s t : State, step s = .next t →
    t.counter = s.counter ∨
    ((takeMove s).1 = .tick ∧ s.run = true ∧ t.counter = addW (width s.cfg) s.counter 1)

/-- PENDING rises only by a match: a tick that arrives at COMPARE, or a compare write equal to the count under
`P_WRITE_EQ_MATCH`; it falls only by U_CLR or U_INIT (R20, R65, R72, R90). -/
def Obligations.PendingRisesByMatchFallsByClear : Prop :=
  ∀ s t : State, step s = .next t →
    (s.pending = false → t.pending = true →
      ((takeMove s).1 = .tick ∧ t.counter = s.compare ∧ t.counter = addW (width s.cfg) s.counter 1 ∧ s.run = true) ∨
      (s.cfg.pWriteEqMatch = true ∧ t.compare = s.counter ∧ ∃ q, s.seq = 0x84 :: q ∨ s.seq = 0x85 :: q)) ∧
    (s.pending = true → t.pending = false → ∃ q, s.seq = 0x86 :: q ∨ s.seq = 0x80 :: q)

/-- COMPARE is written only by U_ARM_ARG and U_ARM_PER (R19), IE only by U_IE1, U_IE0 and U_INIT (R21), ASTATE only by
U_ARMED, U_DISARMED and U_INIT (R25), RUN and INIT_DONE only by U_INIT (R24, R26), CAPTURE only by U_CAPTURE (R22), NEAR only
by U_ARM_ARG, U_ARM_PER, U_INIT and a tick that arrives at COMPARE, which clears it (R23), and CTX only by an enabled ACCEPT,
U_NOTIFY and U_CBRET, each to its own context (R28). -/
def Obligations.AlarmRegisterWriters : Prop :=
  ∀ s t : State, step s = .next t →
    (t.compare ≠ s.compare → ∃ q, s.seq = 0x84 :: q ∨ s.seq = 0x85 :: q) ∧
    (t.ie ≠ s.ie → ∃ q, s.seq = 0x87 :: q ∨ s.seq = 0x88 :: q ∨ s.seq = 0x80 :: q) ∧
    (t.astate ≠ s.astate → ∃ q, s.seq = 0x8C :: q ∨ s.seq = 0x8D :: q ∨ s.seq = 0x80 :: q) ∧
    (t.run ≠ s.run ∨ t.initDone ≠ s.initDone → ∃ q, s.seq = 0x80 :: q) ∧
    (t.capture ≠ s.capture → ∃ q, s.seq = 0x82 :: q) ∧
    (t.near ≠ s.near → ((takeMove s).1 = .tick ∧ s.run = true ∧ t.counter = s.compare ∧ t.near = false) ∨
      ∃ q, s.seq = 0x84 :: q ∨ s.seq = 0x85 :: q ∨ s.seq = 0x80 :: q) ∧
    (t.ctx ≠ s.ctx → ((takeMove s).1 = .accept ∧ acceptEnabled s = true ∧ t.ctx = .service) ∨
      ∃ q, (s.seq = 0x8E :: q ∧ t.ctx = .callback) ∨ (s.seq = 0x8F :: q ∧ t.ctx = .normal))

/-- The banks keep the contexts apart: outside Normal no step changes the Normal bank, and in Normal none changes the
Callback bank (R29, R30, R112, R124). -/
def Obligations.BanksKeepContextsApart : Prop :=
  ∀ s t : State, Inv s → step s = .next t →
    (s.ctx ≠ .normal → t.normal = s.normal) ∧ (s.ctx = .normal → t.callback = s.callback)

/-- HIST is append-only and has no effect on any step (R33). -/
def Obligations.HistoryGrowsWithoutEffect : Prop :=
  ∀ s t : State, step s = .next t →
    (∃ l, t.hist = s.hist ++ l) ∧
    ∀ h : List Event, step { s with hist := h ++ s.hist } = .next { t with hist := h ++ t.hist }

/-- No step writes a parameter, and the machine never reads `IRQ_LINE` or `SEQ_TICK_BOUND` (R9, R16, R150). -/
def Obligations.ParametersFixedAndClaimOnesUnread : Prop :=
  ∀ (s t : State) (n : Nat) (b : Option Nat), step s = .next t →
    t.cfg = s.cfg ∧
    step { s with cfg := { s.cfg with irqLine := n, seqTickBound := b } } =
      .next { t with cfg := { t.cfg with irqLine := n, seqTickBound := b } }

/-- Only U_ARM_ARG and U_INFO read the latched operand (R55, R56). -/
def Obligations.OtherUopsIgnoreOperand : Prop :=
  ∀ (i : Instr) (s t : State) (v : Word), i.isUop = true → i ≠ .uArmArg → i ≠ .uInfo →
    exec i s = .next t → exec i { s with seqArg := v } = .next { t with seqArg := v }

/-! ## Commands: the dispatch -/

/-- The ten commands, ready: `ARG[CTX]` is latched, the sequence of R61 is loaded, and nothing else changes. INIT needs INIT
not done, STATUS and INFO nothing more, CBRET the callback, and the others INIT done (R103, R104). -/
def Obligations.CommandsLoadTheirSequence : Prop :=
  ∀ s : State, ready s = true →
    let load (opc : Byte) (q : List Byte) : Out := .next { s with
      seqCtx := s.ctx, seqOpc := opc, seqArg := (if s.ctx = .callback then s.callback.arg else s.normal.arg),
      result := 0, seq := q }
    (s.initDone = false → exec .init s = load 0x01 [0x80]) ∧
    exec .status s = load 0x09 [0x90] ∧
    exec .info s = load 0x0A [0x91] ∧
    (s.initDone = true → s.ctx = .callback → exec .cbret s = load 0x08 [0x8F]) ∧
    (s.initDone = true →
      exec .start s = load 0x03 [0x84, 0x86, 0x87, 0x8C] ∧
      exec .stop s = load 0x04 [0x88, 0x86, 0x8D] ∧
      exec .set s = load 0x05 [0x84] ∧
      exec .get s = load 0x06 [0x8B] ∧
      (s.cfg.backendSel = 0 → exec .isActive s = load 0x07 [0x89] ∧ exec .getCounter s = load 0x02 [0x81]) ∧
      (s.cfg.backendSel = 1 → exec .isActive s = load 0x07 [0x8A] ∧ exec .getCounter s = load 0x02 [0x82, 0x83]))

/-- The dispatch faults that depend on the command: DOUBLE_INIT, NOT_INIT with the opcode as info, BAD_CBRET; the record
goes to the bank of the issuing context and nothing else changes (R103, R117). -/
def Obligations.DispatchFaultsByCommand : Prop :=
  ∀ s : State, ready s = true →
    let fault (code : Byte) (info : BitVec 24) : Out := .next { s with
      seqCtx := s.ctx, fault := code, faultInfo := info,
      normal := (if s.ctx = .normal then { s.normal with rval := 0, rstat := info ++ code } else s.normal),
      callback := (if s.ctx = .callback then { s.callback with rval := 0, rstat := info ++ code } else s.callback) }
    (s.initDone = true → exec .init s = fault 0x11 0) ∧
    (s.initDone = false → exec .getCounter s = fault 0x10 2 ∧ exec .start s = fault 0x10 3 ∧
      exec .stop s = fault 0x10 4 ∧ exec .set s = fault 0x10 5 ∧ exec .get s = fault 0x10 6 ∧
      exec .isActive s = fault 0x10 7 ∧ exec .cbret s = fault 0x10 8) ∧
    (s.initDone = true → s.ctx ≠ .callback → exec .cbret s = fault 0x14 0)

/-! ## μops -/

/-- The end of a μop: with more μops left, or in a service, nothing more; at the end of a command, `RESULT` and a zero
status go to the bank of `SEQ_CTX` (R105, R106). -/
def Obligations.LastUopResponds : Prop :=
  ∀ s : State,
    (s.seq ≠ [] ∨ s.seqCtx = .service → finishUop s = s) ∧
    (s.seq = [] → s.seqCtx = .normal →
      finishUop s = { s with normal := { s.normal with rval := s.result, rstat := 0 } }) ∧
    (s.seq = [] → s.seqCtx = .callback →
      finishUop s = { s with callback := { s.callback with rval := s.result, rstat := 0 } })

/-- U_READ_CNT, U_CAPTURE, U_READ_CAP, U_QIE, U_QSHADOW on their backend, and U_RDCMP on both: the register written, and
nothing else but the response at the end of the command (R66 to R68, R76 to R78). -/
def Obligations.ReadingUopsWriteOneRegister : Prop :=
  ∀ s : State,
    (s.cfg.backendSel = 0 → exec .uReadCnt s = .next (finishUop { s with result := s.counter })) ∧
    (s.cfg.backendSel = 1 → exec .uCapture s = .next (finishUop { s with capture := s.counter })) ∧
    (s.cfg.backendSel = 1 → exec .uReadCap s = .next (finishUop { s with result := s.capture })) ∧
    (s.cfg.backendSel = 0 → exec .uQie s = .next (finishUop { s with result := if s.ie = true then 1 else 0 })) ∧
    (s.cfg.backendSel = 1 →
      exec .uQshadow s = .next (finishUop { s with result := if s.astate = .armed then 1 else 0 })) ∧
    exec .uRdcmp s = .next (finishUop { s with result := s.compare })

/-- A μop the live backend lacks raises UOP_UNAVAILABLE with its code as info: the first fault is recorded, answered in the
bank of `SEQ_CTX`, and ends the sequence; after a fault nothing changes (R80, R117). -/
def Obligations.UnavailableUopFaults : Prop :=
  ∀ s : State,
    let raised (info : BitVec 24) : Out := .next (faulted 0x17 info s)
    (s.cfg.backendSel = 1 → exec .uReadCnt s = raised 0x81 ∧ exec .uQie s = raised 0x89) ∧
    (s.cfg.backendSel = 0 →
      exec .uCapture s = raised 0x82 ∧ exec .uReadCap s = raised 0x83 ∧ exec .uQshadow s = raised 0x8A)

/-- U_ARM_ARG and U_ARM_PER write COMPARE, from the operand cut to W bits or from the old COMPARE plus PERIOD modulo `2^W`,
with the write-equal latch and the near window of R72, and nothing else but the response (R70, R71, R72). -/
def Obligations.ArmUopsWriteCompare : Prop :=
  ∀ (s : State) (i : Instr) (v : Word),
    (i = .uArmArg ∧ v = BitVec.ofNat 32 (s.seqArg.toNat % 2 ^ width s.cfg) ∨
     i = .uArmPer ∧ v = BitVec.ofNat 32 ((s.compare.toNat + s.cfg.period.toNat) % 2 ^ width s.cfg)) →
    (v = s.counter → s.cfg.pWriteEqMatch = false →
      exec i s = .next (finishUop { s with compare := v, near := false })) ∧
    (v = s.counter → s.cfg.pWriteEqMatch = true →
      exec i s = .next (finishUop { s with
        compare := v, near := false, pending := true, hist := s.hist ++ [.matched v] })) ∧
    (v ≠ s.counter → exec i s = .next (finishUop { s with
      compare := v, near := decide (mdiffW (width s.cfg) v s.counter ≤ s.cfg.missWindow) }))

/-- U_CLR, U_IE1, U_IE0, U_ARMED and U_DISARMED write their one bit, and nothing else but the response (R73 to R75, R81,
R82). -/
def Obligations.OneBitUops : Prop :=
  ∀ s : State,
    exec .uClr s = .next (finishUop { s with pending := false }) ∧
    exec .uIe1 s = .next (finishUop { s with ie := true }) ∧
    exec .uIe0 s = .next (finishUop { s with ie := false }) ∧
    exec .uArmed s = .next (finishUop { s with astate := .armed }) ∧
    exec .uDisarmed s = .next (finishUop { s with astate := .disarmed })

/-- U_NOTIFY appends NOTIFY and enters the callback; U_CBRET returns to Normal (R112, R123). -/
def Obligations.NotifyAndReturnSwitchContext : Prop :=
  ∀ s : State,
    exec .uNotify s = .next (finishUop { s with hist := s.hist ++ [.notify], ctx := .callback }) ∧
    exec .uCbret s = .next (finishUop { s with ctx := .normal })

/-- U_STATUS: the word's bits, and nothing else but the response (R58, R114). -/
def Obligations.StatusWordBits : Prop :=
  ∀ s : State, ∃ w : Word, exec .uStatus s = .next (finishUop { s with result := w }) ∧
    w.getLsbD 0 = s.initDone ∧ w.getLsbD 1 = decide (s.astate = .armed) ∧ w.getLsbD 2 = s.pending ∧
    w.getLsbD 3 = s.run ∧ w.getLsbD 4 = decide (s.seqCtx = .callback) ∧ ∀ k, 5 ≤ k → w.getLsbD k = false

/-- U_INFO: the items 0 to 5, items 0 and 3 reading 0 on an invalid BACKEND_SEL, and ILLEGAL_ARG above 5 (R116). -/
def Obligations.InfoItems : Prop :=
  ∀ s : State,
    let answer (v : Word) : Out := .next (finishUop { s with result := v })
    (s.seqArg = 0 → s.cfg.backendSel = 0 → exec .uInfo s = answer (BitVec.ofNat 32 s.cfg.wRtc)) ∧
    (s.seqArg = 0 → s.cfg.backendSel = 1 → exec .uInfo s = answer (BitVec.ofNat 32 s.cfg.wCc)) ∧
    (s.seqArg = 1 → exec .uInfo s = answer (BitVec.ofNat 32 s.cfg.backendSel.toNat)) ∧
    (s.seqArg = 2 → exec .uInfo s = answer (BitVec.ofNat 32 s.cfg.modeSel.toNat)) ∧
    (s.seqArg = 3 → s.cfg.backendSel = 0 → exec .uInfo s = answer s.cfg.floorRtc) ∧
    (s.seqArg = 3 → s.cfg.backendSel = 1 → exec .uInfo s = answer s.cfg.floorCc) ∧
    (s.seqArg = 0 ∨ s.seqArg = 3 → 2 ≤ s.cfg.backendSel.toNat → exec .uInfo s = answer 0) ∧
    (s.seqArg = 4 → exec .uInfo s = answer s.cfg.period) ∧
    (s.seqArg = 5 → exec .uInfo s = answer s.cfg.lookahead) ∧
    (6 ≤ s.seqArg.toNat → exec .uInfo s = .next (faulted 0x15 (BitVec.ofNat 24 s.seqArg.toNat) s))

/-- U_INIT on a configuration that passes every check of R93 to R96 sets the block up (R108). -/
def Obligations.InitSetsUpOnLegalConfiguration : Prop :=
  ∀ s : State,
    (s.cfg.backendSel = 0 ∨ s.cfg.backendSel = 1) → (s.cfg.modeSel = 0 ∨ s.cfg.modeSel = 1) →
    (s.cfg.modeSel = 1 → s.cfg.backendSel = 0 → s.cfg.floorRtc.toNat ≤ s.cfg.lookahead.toNat) →
    (s.cfg.modeSel = 1 → s.cfg.backendSel = 1 → s.cfg.floorCc.toNat ≤ s.cfg.lookahead.toNat) →
    (s.cfg.modeSel = 0 → 1 ≤ s.cfg.period.toNat ∧ s.cfg.period.toNat < 2 ^ width s.cfg) →
    exec .uInit s = .next (finishUop { s with
      ie := false, pending := false, near := false, astate := .disarmed, run := true, initDone := true, result := 0 })

/-- U_INIT on a configuration that fails: the first failing check in the order backend, mode, floor, period raises its
fault with the offending value, and writes nothing else (R92 to R96). -/
def Obligations.InitRejectsIllegalConfiguration : Prop :=
  ∀ (s : State) (floor : Word), (floor = if s.cfg.backendSel = 1 then s.cfg.floorCc else s.cfg.floorRtc) →
    let reject (code : Byte) (v : Nat) : Out := .next (faulted code (BitVec.ofNat 24 v) s)
    (2 ≤ s.cfg.backendSel.toNat → exec .uInit s = reject 0x01 s.cfg.backendSel.toNat) ∧
    (s.cfg.backendSel.toNat < 2 → 2 ≤ s.cfg.modeSel.toNat → exec .uInit s = reject 0x02 s.cfg.modeSel.toNat) ∧
    (s.cfg.backendSel.toNat < 2 → s.cfg.modeSel = 1 → s.cfg.lookahead.toNat < floor.toNat →
      exec .uInit s = reject 0x03 s.cfg.lookahead.toNat) ∧
    (s.cfg.backendSel.toNat < 2 → s.cfg.modeSel = 0 →
      (s.cfg.period = 0 ∨ 2 ^ width s.cfg ≤ s.cfg.period.toNat) →
      exec .uInit s = reject 0x04 s.cfg.period.toNat)

/-! ## Whole commands and services, with the counter running -/

/-- START with any ticks before, between and after its μops: the deadline is programmed, the enable on, the alarm Armed, the
response zero; with no tick after the clear, no latch is left (R83). -/
def Obligations.StartArmsWhateverTheTicks : Prop :=
  ∀ (s : State) (n0 n1 n2 n3 : Nat), Inv s → s.cfg.wf = true → ready s = true → s.initDone = true →
    let moves := [cmdWrite s .start] ++ ticks n0 ++ [.sequencer] ++ ticks n1 ++ [.sequencer] ++ ticks n2 ++
      [.sequencer] ++ ticks n3 ++ [.sequencer]
    ∃ t : State, runSteps moves.length (withMoves moves s) = .next t ∧
      t.compare = truncW (width s.cfg) (bankOf s s.ctx).arg ∧ t.ie = true ∧ t.astate = .armed ∧ t.seq = [] ∧
      t.ctx = s.ctx ∧ t.fault = 0 ∧ t.counter = countAfter s (n0 + n1 + n2 + n3) ∧ t.schedule = s.schedule ∧
      bankOf t s.ctx = { arg := (bankOf s s.ctx).arg, rval := 0, rstat := 0 } ∧
      (n2 = 0 → n3 = 0 → t.pending = false)

/-- STOP with any ticks: the enable off, the alarm Disarmed, the deadline kept; with no tick after the clear, no latch is
left (R84). -/
def Obligations.StopDisarmsWhateverTheTicks : Prop :=
  ∀ (s : State) (n0 n1 n2 : Nat), Inv s → s.cfg.wf = true → ready s = true → s.initDone = true →
    let moves := [cmdWrite s .stop] ++ ticks n0 ++ [.sequencer] ++ ticks n1 ++ [.sequencer] ++ ticks n2 ++ [.sequencer]
    ∃ t : State, runSteps moves.length (withMoves moves s) = .next t ∧
      t.compare = s.compare ∧ t.ie = false ∧ t.astate = .disarmed ∧ t.seq = [] ∧ t.ctx = s.ctx ∧ t.fault = 0 ∧
      t.counter = countAfter s (n0 + n1 + n2) ∧ t.schedule = s.schedule ∧
      bankOf t s.ctx = { arg := (bankOf s s.ctx).arg, rval := 0, rstat := 0 } ∧ (n2 = 0 → t.pending = false)

/-- SET with any ticks before its μop: the deadline is programmed, and the enable and AlarmState are as they were; a latch
held before is held after (R85). -/
def Obligations.SetReprogramsOnly : Prop :=
  ∀ (s : State) (n : Nat), Inv s → s.cfg.wf = true → ready s = true → s.initDone = true →
    let moves := [cmdWrite s .set] ++ ticks n ++ [.sequencer]
    ∃ t : State, runSteps moves.length (withMoves moves s) = .next t ∧
      t.compare = truncW (width s.cfg) (bankOf s s.ctx).arg ∧ t.ie = s.ie ∧ t.astate = s.astate ∧ t.seq = [] ∧
      t.ctx = s.ctx ∧ t.fault = 0 ∧ t.counter = countAfter s n ∧ (s.pending = true → t.pending = true) ∧
      bankOf t s.ctx = { arg := (bankOf s s.ctx).arg, rval := 0, rstat := 0 }

/-- The queries with no tick inside them: GET answers COMPARE, IS_ACTIVE answers the enable on both backends, GET_COUNTER
answers the count, and the only registers changed are the response bank's and the sequencer's own, and on CC CAPTURE by
GET_COUNTER (R86, R87, R88, R109). -/
def Obligations.QueriesAnswerAndChangeNothing : Prop :=
  ∀ s : State, Inv s → ready s = true → s.initDone = true →
    let answers (i : Instr) (k : Nat) (v : Word) (cap : Word) : Prop :=
      ∃ t : State, runSteps (k + 1) (withMoves (cmdWrite s i :: List.replicate k .sequencer) s) = .next t ∧
        bankOf t s.ctx = { arg := (bankOf s s.ctx).arg, rval := v, rstat := 0 } ∧
        t = { s with
          normal := t.normal, callback := t.callback, capture := cap, seqArg := t.seqArg, seqCtx := s.ctx,
          seqOpc := i.code, result := v } ∧
        (s.ctx = .normal → t.callback = s.callback) ∧ (s.ctx = .callback → t.normal = s.normal)
    answers .get 1 s.compare s.capture ∧
    answers .isActive 1 (if s.ie = true then 1 else 0) s.capture ∧
    (s.cfg.backendSel = 0 → answers .getCounter 1 s.counter s.capture) ∧
    (s.cfg.backendSel = 1 → answers .getCounter 2 s.counter s.counter)

/-- STATUS and INFO, at any time with no fault, before INIT too: the status word, or the item of R116, in the bank of the
context, and no other register changed; an item above 5 is ILLEGAL_ARG with info `k[23:0]` (R113 to R116). -/
def Obligations.StatusAndInfoAnswer : Prop :=
  ∀ s : State, ready s = true →
    let after (code : Byte) (v st : Word) (r : Word) (f : Byte) (info : BitVec 24) : Out := .next { s with
      seqCtx := s.ctx, seqOpc := code, seqArg := (bankOf s s.ctx).arg, result := r, fault := f, faultInfo := info,
      normal := (if s.ctx = .normal then { s.normal with rval := v, rstat := st } else s.normal),
      callback := (if s.ctx = .callback then { s.callback with rval := v, rstat := st } else s.callback) }
    (∀ w : Word, w = statusWord { s with seqCtx := s.ctx } →
      runSteps 2 (withMoves [cmdWrite s .status, .sequencer] s) = after 0x09 w 0 w s.fault s.faultInfo) ∧
    (∀ v : Word, infoItem s.cfg (bankOf s s.ctx).arg = some v →
      runSteps 2 (withMoves [cmdWrite s .info, .sequencer] s) = after 0x0A v 0 v s.fault s.faultInfo) ∧
    (∀ info : BitVec 24, 5 < (bankOf s s.ctx).arg.toNat → info = (bankOf s s.ctx).arg.extractLsb' 0 24 →
      runSteps 2 (withMoves [cmdWrite s .info, .sequencer] s) = after 0x0A 0 (info ++ (0x15 : Byte)) 0 0x15 info)

/-- GET_COUNTER on CC answers the count at the capture step, however many ticks fall before the read (R68, R109). -/
def Obligations.CaptureReadIsTheCapturedCount : Prop :=
  ∀ (s : State) (n0 n1 : Nat), Inv s → s.cfg.wf = true → ready s = true → s.initDone = true → s.cfg.backendSel = 1 →
    let moves := [cmdWrite s .getCounter] ++ ticks n0 ++ [.sequencer] ++ ticks n1 ++ [.sequencer]
    ∃ t : State, runSteps moves.length (withMoves moves s) = .next t ∧ t.seq = [] ∧
      (bankOf t s.ctx).rval = countAfter s n0 ∧ (bankOf t s.ctx).rstat = 0 ∧ t.capture = countAfter s n0 ∧
      t.counter = countAfter s (n0 + n1) ∧ t.compare = s.compare ∧ t.ie = s.ie ∧ t.astate = s.astate

/-- INIT from reset, on a configuration that passes: the registers of R34's second column, and the drawn ones kept
(R107, R108). -/
def Obligations.InitFromResetSetsUp : Prop :=
  ∀ (c : Config) (d : Draws) (q : List Move), validateConfig c = none →
    let s := State.resetWith c d q
    runSteps 2 (withMoves [cmdWrite s .init, .sequencer] s) = .next { s with
      pending := false, run := true, initDone := true, seqOpc := 0x01, seqArg := d.argNormal,
      normal := { arg := d.argNormal, rval := 0, rstat := 0 } }

/-- CBRET from the callback: the Normal context again, its bank as the normal code left it, a zero response in the Callback
bank, and acceptance enabled again if the request is up (R111, R112, R126, R127). -/
def Obligations.CbretReturnsToNormal : Prop :=
  ∀ s : State, ready s = true → s.initDone = true → s.ctx = .callback →
    ∃ t : State, runSteps 2 (withMoves [cmdWrite s .cbret, .sequencer] s) = .next t ∧
      t = { s with
        ctx := .normal, callback := { s.callback with rval := 0, rstat := 0 }, seqCtx := .callback, seqOpc := 0x08,
        seqArg := s.callback.arg, result := 0 } ∧
      acceptEnabled t = (s.pending && s.ie)

/-- The PeriodicTick service with any ticks: one re-arm at COMPARE plus PERIOD, one NOTIFY, the enable and AlarmState kept,
the callback entered, the banks untouched (R99). -/
def Obligations.PeriodicServiceRearmsAndNotifies : Prop :=
  ∀ (s : State) (n0 n1 n2 : Nat), Inv s → acceptEnabled s = true → s.cfg.modeSel = 0 →
    let moves := [.accept] ++ ticks n0 ++ [.sequencer] ++ ticks n1 ++ [.sequencer] ++ ticks n2 ++ [.sequencer]
    ∃ t : State, runSteps moves.length (withMoves moves s) = .next t ∧
      t.compare = addW (width s.cfg) s.compare s.cfg.period ∧ t.ie = true ∧ t.astate = .armed ∧ t.ctx = .callback ∧
      t.seq = [] ∧ notifyCount t.hist = notifyCount s.hist + 1 ∧ t.normal = s.normal ∧ t.callback = s.callback ∧
      (n1 = 0 → n2 = 0 → s.cfg.pWriteEqMatch = false → t.pending = false)

/-- The TickLess service with any ticks: the alarm stopped and Disarmed, COMPARE kept, one NOTIFY, the callback entered, the
banks untouched (R100). -/
def Obligations.TickLessServiceStopsAndNotifies : Prop :=
  ∀ (s : State) (n0 n1 n2 n3 n4 : Nat), Inv s → acceptEnabled s = true → s.cfg.modeSel = 1 →
    let moves := [.accept] ++ ticks n0 ++ [.sequencer] ++ ticks n1 ++ [.sequencer] ++ ticks n2 ++ [.sequencer] ++
      ticks n3 ++ [.sequencer] ++ ticks n4 ++ [.sequencer]
    ∃ t : State, runSteps moves.length (withMoves moves s) = .next t ∧
      t.compare = s.compare ∧ t.ie = false ∧ t.astate = .disarmed ∧ t.ctx = .callback ∧ t.seq = [] ∧
      notifyCount t.hist = notifyCount s.hist + 1 ∧ t.normal = s.normal ∧ t.callback = s.callback ∧
      (n3 = 0 → n4 = 0 → t.pending = false)

/-- From a state of the invariant, as many sequencer moves as SEQ has μops end the sequence: every command and every service
ends (R105, R149). If the host has made its last access, and that access is a command of the Normal context or CBRET, the
run so ENDS, at the first state with the conditions of R151 (log entry 21). -/
def Obligations.SequencesEnd : Prop :=
  ∀ s : State, Inv s → s.seq.length ≤ 5 ∧
    (∃ t : State, runSteps s.seq.length (withMoves (List.replicate s.seq.length .sequencer) s) = .next t ∧ t.seq = []) ∧
    (hostDone s = true → s.ctx = .normal ∨ s.seq = [0x8F] →
      ∃ t : State, Ends (withMoves (List.replicate s.seq.length .sequencer) s) t)

/-- The first match comes at the tick that brings the count to COMPARE, `mdiff_W(COMPARE, COUNTER)` ticks away, or a whole
wrap away when they are equal; before it PENDING and HIST do not change (R65, R140). -/
def Obligations.FirstMatchAtModularDistance : Prop :=
  ∀ (s : State) (k n : Nat), Inv s → s.cfg.wf = true → s.run = true → s.near = false →
    (k = if s.compare = s.counter then 2 ^ width s.cfg else mdiffW (width s.cfg) s.compare s.counter) →
    (n < k → ∃ t, runSteps n (withMoves (ticks n) s) = .next t ∧ t.pending = s.pending ∧ t.hist = s.hist) ∧
    (∃ t, runSteps k (withMoves (ticks k) s) = .next t ∧ t.pending = true ∧ t.counter = s.compare ∧
      t.hist = s.hist ++ [.matched s.compare])

/-- A START that keeps the look-ahead loses no alarm: if at most `bound` ticks fall during the sequence and the deadline is
more than `bound + MISS_WINDOW` ahead, then the sequence ends with no latch and `NEAR = 0`, and the tick that first brings
the count to the deadline raises IRQ (R139, R150; the premise is stronger than R150's, log entry 12). -/
def Obligations.LookaheadStartIsNotLost : Prop :=
  ∀ (s : State) (d : Word) (bound n0 n1 n2 n3 : Nat), Inv s → s.cfg.wf = true → ready s = true → s.initDone = true →
    d = truncW (width s.cfg) (bankOf s s.ctx).arg → n0 + n1 + n2 + n3 ≤ bound →
    bound + s.cfg.missWindow < mdiffW (width s.cfg) d s.counter →
    let moves := [cmdWrite s .start] ++ ticks n0 ++ [.sequencer] ++ ticks n1 ++ [.sequencer] ++ ticks n2 ++
      [.sequencer] ++ ticks n3 ++ [.sequencer]
    let k := mdiffW (width s.cfg) d s.counter - (n0 + n1 + n2 + n3)
    ∃ t u : State, runSteps moves.length (withMoves moves s) = .next t ∧ t.compare = d ∧ t.pending = false ∧
      t.near = false ∧ t.ie = true ∧ t.astate = .armed ∧
      runSteps k (withMoves (ticks k) t) = .next u ∧ u.counter = d ∧ irq u = true ∧ u.hist = t.hist ++ [.matched d]

/-- R150's claim with its premise as worded, `mdiff_W(d, c) > max(SEQ_TICK_BOUND, MISS_WINDOW)` at the issue: `NEAR = 0` at
the end of the sequence. Expected to fail: ticks before U_ARM_ARG bring the count into the near window (log entry 12). -/
def Obligations.LookaheadMaxPremiseKeepsNearClear : Prop :=
  ∀ (s : State) (d : Word) (bound n0 : Nat), Inv s → s.cfg.wf = true → ready s = true → s.initDone = true →
    d = truncW (width s.cfg) (bankOf s s.ctx).arg → n0 ≤ bound → lookaheadKept bound d s →
    let moves := [cmdWrite s .start] ++ ticks n0 ++ [.sequencer, .sequencer, .sequencer, .sequencer]
    ∃ t : State, runSteps moves.length (withMoves moves s) = .next t ∧ t.near = false

/-- The periodic re-arm law: in PeriodicTick mode, over any path of steps on which no START, SET or STOP is issued, the
deadline has advanced by PERIOD per notification, modulo `2^W`, and the enable and AlarmState are as they were (R101). -/
def Obligations.PeriodicRearmLaw : Prop :=
  ∀ s t : State, Inv s → s.cfg.wf = true → s.cfg.modeSel = 0 → s.seq = [] → s.initDone = true →
    Path noAlarmCommand s t → t.ctx ≠ .service →
    ∃ n : Nat, notifyCount t.hist = notifyCount s.hist + n ∧
      t.compare = BitVec.ofNat 32 ((s.compare.toNat + n * s.cfg.period.toNat) % 2 ^ width s.cfg) ∧
      t.ie = s.ie ∧ t.astate = s.astate

/-! ## Races and modular time -/

/-- A tick and U_CLR, both orders: tick first, the match it latches is discarded; U_CLR first, it is kept (R47). -/
def Obligations.TickAndClearBothOrders : Prop :=
  ∀ (s : State) (q : List Byte), s.run = true → s.near = false → s.seq = 0x86 :: q →
    addW (width s.cfg) s.counter 1 = s.compare →
    (∃ t, runSteps 2 (withMoves [.tick, .sequencer] s) = .next t ∧ t.pending = false ∧ t.counter = s.compare) ∧
    (∃ t, runSteps 2 (withMoves [.sequencer, .tick] s) = .next t ∧ t.pending = true ∧ t.counter = s.compare)

/-- STOP racing a raised request, both orders, with any ticks and any ACCEPT moves between their moves (R148).
ACCEPT first: the service has started and holds the host; it runs to its end, with its one NOTIFY; after CBRET, if ACCEPT is
not taken again before STOP is written, STOP runs in the Normal context, with no further NOTIFY.
STOP first: from its write on no ACCEPT is taken and no NOTIFY comes, and the alarm ends off and Disarmed, its deadline kept;
with no tick after U_CLR, no latch is left. -/
def Obligations.StopAndAcceptBothOrders : Prop :=
  ∀ s : State, Inv s → acceptEnabled s = true →
    (∃ t, runSteps 1 (withMoves [.accept, cmdWrite s .stop] s) = .next t ∧ t.ctx = .service ∧ held t = true) ∧
    (∀ (ls : List (List Move)) (k0 k1 l0 l1 l2 l3 : List Move) (n : Nat),
      ls.length = (if s.cfg.modeSel = 0 then 3 else 5) → ls.all ticksAndAccepts = true →
      [k0, k1, l0, l1, l2, l3].all ticksAndAccepts = true →
      let service := [.accept] ++ sequencerAfter ls
      let callback := k0 ++ [cmdWrite s .cbret] ++ sequencerAfter [k1]
      let stop := ticks n ++ [cmdWrite s .stop] ++ sequencerAfter [l0, l1, l2] ++ l3
      ∃ t u v : State,
        runSteps service.length (withMoves (service ++ callback ++ stop) s) = .next t ∧
        t.ctx = .callback ∧ t.seq = [] ∧ notifyCount t.hist = notifyCount s.hist + 1 ∧
        runSteps callback.length t = .next u ∧ u.ctx = .normal ∧ u.seq = [] ∧
        runSteps stop.length u = .next v ∧ v.ctx = .normal ∧ v.seq = [] ∧ v.ie = false ∧ v.astate = .disarmed ∧
        v.compare = u.compare ∧ notifyCount v.hist = notifyCount s.hist + 1 ∧ v.fault = 0 ∧
        v.normal = { s.normal with rval := 0, rstat := 0 } ∧ v.schedule = s.schedule) ∧
    (∀ l0 l1 l2 l3 : List Move, [l0, l1, l2, l3].all ticksAndAccepts = true →
      let stop := [cmdWrite s .stop] ++ sequencerAfter [l0, l1, l2] ++ l3
      (∀ k ≤ stop.length, ∃ u, runSteps k (withMoves stop s) = .next u ∧ u.ctx = .normal ∧
        notifyCount u.hist = notifyCount s.hist ∧ (1 ≤ k → acceptEnabled u = false)) ∧
      ∃ t, runSteps stop.length (withMoves stop s) = .next t ∧ t.seq = [] ∧ t.ie = false ∧ t.astate = .disarmed ∧
        t.compare = s.compare ∧ t.fault = 0 ∧ t.normal = { s.normal with rval := 0, rstat := 0 } ∧
        t.schedule = s.schedule ∧ (.tick ∉ l2 → .tick ∉ l3 → t.pending = false))

/-- Modular time: a point `k` ticks ahead, `1 <= k < 2^(W-1)`, is after the count by `k`, across the wrap, and at exactly
half the modulus neither is after the other (R12, R13). -/
def Obligations.ModularOrderMatchesElapsedTime : Prop :=
  ∀ (w : Nat) (a : Word) (k : Nat), 2 ≤ w → w ≤ 32 → a.toNat < 2 ^ w → k < 2 ^ w →
    let b := addW w a (BitVec.ofNat 32 k)
    b.toNat = (a.toNat + k) % 2 ^ w ∧ mdiffW w b a = k ∧
    (1 ≤ k → k < 2 ^ (w - 1) → sdiffW w b a = k ∧ afterW w b a = true ∧ afterW w a b = false) ∧
    (2 ^ (w - 1) ≤ k → sdiffW w b a = (k : Int) - 2 ^ w ∧ afterW w b a = false) ∧
    (k = 2 ^ (w - 1) → afterW w b a = false ∧ afterW w a b = false)
end

