-- ==== Sys2Proof/Laws/Decode.lean ====
section
/-!
SUPPORT. The decoder and the encoder: byte order, and what decodes to what.
-/

namespace Sys2Proof.Laws

theorem getLsbD_leWord (b0 b1 b2 b3 : Byte) (i : Nat) : (leWord b0 b1 b2 b3).getLsbD i =
    if i < 8 then b0.getLsbD i else if i < 16 then b1.getLsbD (i - 8) else if i < 24 then b2.getLsbD (i - 16)
    else b3.getLsbD (i - 24) := by
  have h : (leWord b0 b1 b2 b3).getLsbD i = BitVec.getLsbD (w := 8 + 8 + 8 + 8) (b3 ++ b2 ++ b1 ++ b0) i := rfl
  rw [h, BitVec.getLsbD_append, BitVec.getLsbD_append, BitVec.getLsbD_append]
  grind

@[simp] theorem wordBytes_leWord (b0 b1 b2 b3 : Byte) : wordBytes (leWord b0 b1 b2 b3) = [b0, b1, b2, b3] := by
  simp only [wordBytes, List.cons.injEq, and_true]
  refine ⟨?_, ?_, ?_, ?_⟩ <;> ext i hi <;> simp [getLsbD_leWord] <;> grind

@[simp] theorem leWord_bytes (w : Word) :
    leWord (w.extractLsb' 0 8) (w.extractLsb' 8 8) (w.extractLsb' 16 8) (w.extractLsb' 24 8) = w := by
  ext i hi
  simp only [← BitVec.getLsbD_eq_getElem, getLsbD_leWord, BitVec.getLsbD_extractLsb']
  grind

@[simp] theorem decodeBytes_wordBytes (w : Word) : decodeBytes (wordBytes w) = decodeCmd w := by
  simp [decodeBytes, wordBytes]

@[simp] theorem opcField_encodeCmd (i : Instr) : opcField (encodeCmd i) = i.code := by cases i <;> decide

@[simp] theorem rsvField_encodeCmd (i : Instr) : rsvField (encodeCmd i) = 0 := by cases i <;> decide

theorem decodeCmd_encodeCmd (i : Instr) (h : i.isCommand = true) : decodeCmd (encodeCmd i) = .ok i := by
  cases i <;> first | rfl | cases h

theorem decodeUop_code (i : Instr) (h : i.isUop = true) : decodeUop i.code = .ok i := by
  cases i <;> first | rfl | cases h

theorem decodeOpcode_sound {c : Byte} {i : Instr} (h : decodeOpcode c = .ok i) : i.isCommand = true ∧ c = i.code := by
  unfold decodeOpcode at h
  split at h <;> cases h <;> exact ⟨rfl, BitVec.eq_of_toNat_eq (by assumption)⟩

theorem decodeCmd_sound {w : Word} {i : Instr} (h : decodeCmd w = .ok i) :
    i.isCommand = true ∧ rsvField w = 0 ∧ opcField w = i.code := by
  unfold decodeCmd at h
  split at h
  · exact ⟨(decodeOpcode_sound h).1, by assumption, (decodeOpcode_sound h).2⟩
  · cases h

theorem decodeUop_sound {c : Byte} {i : Instr} (h : decodeUop c = .ok i) : i.isUop = true ∧ c = i.code := by
  unfold decodeUop at h
  split at h <;> cases h <;> exact ⟨rfl, BitVec.eq_of_toNat_eq (by assumption)⟩

end Sys2Proof.Laws
end

