-- ==== Sys2Proof/Laws/State.lean ====
section
/-!
SUPPORT. One lemma per field per named update of State: what the update leaves, and what it writes outright.
-/

namespace Sys2Proof.Laws

open Sys2Proof.Machine

variable (s : State)

@[simp] theorem writeResponse_cfg (c : Ctx) (v st : Word) : (writeResponse c v st s).cfg = s.cfg := rfl
@[simp] theorem writeResponse_counter (c : Ctx) (v st : Word) : (writeResponse c v st s).counter = s.counter := rfl
@[simp] theorem writeResponse_compare (c : Ctx) (v st : Word) : (writeResponse c v st s).compare = s.compare := rfl
@[simp] theorem writeResponse_pending (c : Ctx) (v st : Word) : (writeResponse c v st s).pending = s.pending := rfl
@[simp] theorem writeResponse_ie (c : Ctx) (v st : Word) : (writeResponse c v st s).ie = s.ie := rfl
@[simp] theorem writeResponse_capture (c : Ctx) (v st : Word) : (writeResponse c v st s).capture = s.capture := rfl
@[simp] theorem writeResponse_near (c : Ctx) (v st : Word) : (writeResponse c v st s).near = s.near := rfl
@[simp] theorem writeResponse_run (c : Ctx) (v st : Word) : (writeResponse c v st s).run = s.run := rfl
@[simp] theorem writeResponse_astate (c : Ctx) (v st : Word) : (writeResponse c v st s).astate = s.astate := rfl
@[simp] theorem writeResponse_initDone (c : Ctx) (v st : Word) : (writeResponse c v st s).initDone = s.initDone := rfl
@[simp] theorem writeResponse_fault (c : Ctx) (v st : Word) : (writeResponse c v st s).fault = s.fault := rfl
@[simp] theorem writeResponse_faultInfo (c : Ctx) (v st : Word) : (writeResponse c v st s).faultInfo = s.faultInfo := rfl
@[simp] theorem writeResponse_ctx (c : Ctx) (v st : Word) : (writeResponse c v st s).ctx = s.ctx := rfl
@[simp] theorem writeResponse_seq (c : Ctx) (v st : Word) : (writeResponse c v st s).seq = s.seq := rfl
@[simp] theorem writeResponse_seqArg (c : Ctx) (v st : Word) : (writeResponse c v st s).seqArg = s.seqArg := rfl
@[simp] theorem writeResponse_seqCtx (c : Ctx) (v st : Word) : (writeResponse c v st s).seqCtx = s.seqCtx := rfl
@[simp] theorem writeResponse_seqOpc (c : Ctx) (v st : Word) : (writeResponse c v st s).seqOpc = s.seqOpc := rfl
@[simp] theorem writeResponse_result (c : Ctx) (v st : Word) : (writeResponse c v st s).result = s.result := rfl
@[simp] theorem writeResponse_hist (c : Ctx) (v st : Word) : (writeResponse c v st s).hist = s.hist := rfl
@[simp] theorem writeResponse_schedule (c : Ctx) (v st : Word) : (writeResponse c v st s).schedule = s.schedule := rfl
@[simp] theorem writeResponse_draws (c : Ctx) (v st : Word) : (writeResponse c v st s).draws = s.draws := rfl
@[simp] theorem writeResponse_lastRead (c : Ctx) (v st : Word) : (writeResponse c v st s).lastRead = s.lastRead := rfl

@[simp] theorem respond_cfg (v : Word) : (respond v s).cfg = s.cfg := rfl
@[simp] theorem respond_counter (v : Word) : (respond v s).counter = s.counter := rfl
@[simp] theorem respond_compare (v : Word) : (respond v s).compare = s.compare := rfl
@[simp] theorem respond_pending (v : Word) : (respond v s).pending = s.pending := rfl
@[simp] theorem respond_ie (v : Word) : (respond v s).ie = s.ie := rfl
@[simp] theorem respond_capture (v : Word) : (respond v s).capture = s.capture := rfl
@[simp] theorem respond_near (v : Word) : (respond v s).near = s.near := rfl
@[simp] theorem respond_run (v : Word) : (respond v s).run = s.run := rfl
@[simp] theorem respond_astate (v : Word) : (respond v s).astate = s.astate := rfl
@[simp] theorem respond_initDone (v : Word) : (respond v s).initDone = s.initDone := rfl
@[simp] theorem respond_fault (v : Word) : (respond v s).fault = s.fault := rfl
@[simp] theorem respond_faultInfo (v : Word) : (respond v s).faultInfo = s.faultInfo := rfl
@[simp] theorem respond_ctx (v : Word) : (respond v s).ctx = s.ctx := rfl
@[simp] theorem respond_seq (v : Word) : (respond v s).seq = s.seq := rfl
@[simp] theorem respond_seqArg (v : Word) : (respond v s).seqArg = s.seqArg := rfl
@[simp] theorem respond_seqCtx (v : Word) : (respond v s).seqCtx = s.seqCtx := rfl
@[simp] theorem respond_seqOpc (v : Word) : (respond v s).seqOpc = s.seqOpc := rfl
@[simp] theorem respond_result (v : Word) : (respond v s).result = s.result := rfl
@[simp] theorem respond_hist (v : Word) : (respond v s).hist = s.hist := rfl
@[simp] theorem respond_schedule (v : Word) : (respond v s).schedule = s.schedule := rfl
@[simp] theorem respond_draws (v : Word) : (respond v s).draws = s.draws := rfl
@[simp] theorem respond_lastRead (v : Word) : (respond v s).lastRead = s.lastRead := rfl

@[simp] theorem recordFault_fault (code : Byte) (info : BitVec 24) : (recordFault code info s).fault = code := rfl
@[simp] theorem recordFault_faultInfo (code : Byte) (info : BitVec 24) : (recordFault code info s).faultInfo = info := rfl
@[simp] theorem recordFault_seq (code : Byte) (info : BitVec 24) : (recordFault code info s).seq = [] := rfl
@[simp] theorem recordFault_cfg (code : Byte) (info : BitVec 24) : (recordFault code info s).cfg = s.cfg := rfl
@[simp] theorem recordFault_counter (code : Byte) (info : BitVec 24) : (recordFault code info s).counter = s.counter := rfl
@[simp] theorem recordFault_compare (code : Byte) (info : BitVec 24) : (recordFault code info s).compare = s.compare := rfl
@[simp] theorem recordFault_pending (code : Byte) (info : BitVec 24) : (recordFault code info s).pending = s.pending := rfl
@[simp] theorem recordFault_ie (code : Byte) (info : BitVec 24) : (recordFault code info s).ie = s.ie := rfl
@[simp] theorem recordFault_capture (code : Byte) (info : BitVec 24) : (recordFault code info s).capture = s.capture := rfl
@[simp] theorem recordFault_near (code : Byte) (info : BitVec 24) : (recordFault code info s).near = s.near := rfl
@[simp] theorem recordFault_run (code : Byte) (info : BitVec 24) : (recordFault code info s).run = s.run := rfl
@[simp] theorem recordFault_astate (code : Byte) (info : BitVec 24) : (recordFault code info s).astate = s.astate := rfl
@[simp] theorem recordFault_initDone (code : Byte) (info : BitVec 24) : (recordFault code info s).initDone = s.initDone := rfl
@[simp] theorem recordFault_ctx (code : Byte) (info : BitVec 24) : (recordFault code info s).ctx = s.ctx := rfl
@[simp] theorem recordFault_seqArg (code : Byte) (info : BitVec 24) : (recordFault code info s).seqArg = s.seqArg := rfl
@[simp] theorem recordFault_seqCtx (code : Byte) (info : BitVec 24) : (recordFault code info s).seqCtx = s.seqCtx := rfl
@[simp] theorem recordFault_seqOpc (code : Byte) (info : BitVec 24) : (recordFault code info s).seqOpc = s.seqOpc := rfl
@[simp] theorem recordFault_result (code : Byte) (info : BitVec 24) : (recordFault code info s).result = s.result := rfl
@[simp] theorem recordFault_hist (code : Byte) (info : BitVec 24) : (recordFault code info s).hist = s.hist := rfl
@[simp] theorem recordFault_schedule (code : Byte) (info : BitVec 24) : (recordFault code info s).schedule = s.schedule := rfl
@[simp] theorem recordFault_draws (code : Byte) (info : BitVec 24) : (recordFault code info s).draws = s.draws := rfl
@[simp] theorem recordFault_lastRead (code : Byte) (info : BitVec 24) : (recordFault code info s).lastRead = s.lastRead := rfl

@[simp] theorem raiseFault_cfg (code : Byte) (info : BitVec 24) : (raiseFault code info s).cfg = s.cfg := by unfold raiseFault; split <;> rfl
@[simp] theorem raiseFault_counter (code : Byte) (info : BitVec 24) : (raiseFault code info s).counter = s.counter := by unfold raiseFault; split <;> rfl
@[simp] theorem raiseFault_compare (code : Byte) (info : BitVec 24) : (raiseFault code info s).compare = s.compare := by unfold raiseFault; split <;> rfl
@[simp] theorem raiseFault_pending (code : Byte) (info : BitVec 24) : (raiseFault code info s).pending = s.pending := by unfold raiseFault; split <;> rfl
@[simp] theorem raiseFault_ie (code : Byte) (info : BitVec 24) : (raiseFault code info s).ie = s.ie := by unfold raiseFault; split <;> rfl
@[simp] theorem raiseFault_capture (code : Byte) (info : BitVec 24) : (raiseFault code info s).capture = s.capture := by unfold raiseFault; split <;> rfl
@[simp] theorem raiseFault_near (code : Byte) (info : BitVec 24) : (raiseFault code info s).near = s.near := by unfold raiseFault; split <;> rfl
@[simp] theorem raiseFault_run (code : Byte) (info : BitVec 24) : (raiseFault code info s).run = s.run := by unfold raiseFault; split <;> rfl
@[simp] theorem raiseFault_astate (code : Byte) (info : BitVec 24) : (raiseFault code info s).astate = s.astate := by unfold raiseFault; split <;> rfl
@[simp] theorem raiseFault_initDone (code : Byte) (info : BitVec 24) : (raiseFault code info s).initDone = s.initDone := by unfold raiseFault; split <;> rfl
@[simp] theorem raiseFault_ctx (code : Byte) (info : BitVec 24) : (raiseFault code info s).ctx = s.ctx := by unfold raiseFault; split <;> rfl
@[simp] theorem raiseFault_seqArg (code : Byte) (info : BitVec 24) : (raiseFault code info s).seqArg = s.seqArg := by unfold raiseFault; split <;> rfl
@[simp] theorem raiseFault_seqCtx (code : Byte) (info : BitVec 24) : (raiseFault code info s).seqCtx = s.seqCtx := by unfold raiseFault; split <;> rfl
@[simp] theorem raiseFault_seqOpc (code : Byte) (info : BitVec 24) : (raiseFault code info s).seqOpc = s.seqOpc := by unfold raiseFault; split <;> rfl
@[simp] theorem raiseFault_result (code : Byte) (info : BitVec 24) : (raiseFault code info s).result = s.result := by unfold raiseFault; split <;> rfl
@[simp] theorem raiseFault_hist (code : Byte) (info : BitVec 24) : (raiseFault code info s).hist = s.hist := by unfold raiseFault; split <;> rfl
@[simp] theorem raiseFault_schedule (code : Byte) (info : BitVec 24) : (raiseFault code info s).schedule = s.schedule := by unfold raiseFault; split <;> rfl
@[simp] theorem raiseFault_draws (code : Byte) (info : BitVec 24) : (raiseFault code info s).draws = s.draws := by unfold raiseFault; split <;> rfl
@[simp] theorem raiseFault_lastRead (code : Byte) (info : BitVec 24) : (raiseFault code info s).lastRead = s.lastRead := by unfold raiseFault; split <;> rfl

@[simp] theorem armCompare_compare (v : Word) : (armCompare v s).compare = v := rfl
@[simp] theorem armCompare_cfg (v : Word) : (armCompare v s).cfg = s.cfg := rfl
@[simp] theorem armCompare_counter (v : Word) : (armCompare v s).counter = s.counter := rfl
@[simp] theorem armCompare_ie (v : Word) : (armCompare v s).ie = s.ie := rfl
@[simp] theorem armCompare_capture (v : Word) : (armCompare v s).capture = s.capture := rfl
@[simp] theorem armCompare_run (v : Word) : (armCompare v s).run = s.run := rfl
@[simp] theorem armCompare_astate (v : Word) : (armCompare v s).astate = s.astate := rfl
@[simp] theorem armCompare_initDone (v : Word) : (armCompare v s).initDone = s.initDone := rfl
@[simp] theorem armCompare_fault (v : Word) : (armCompare v s).fault = s.fault := rfl
@[simp] theorem armCompare_faultInfo (v : Word) : (armCompare v s).faultInfo = s.faultInfo := rfl
@[simp] theorem armCompare_ctx (v : Word) : (armCompare v s).ctx = s.ctx := rfl
@[simp] theorem armCompare_normal (v : Word) : (armCompare v s).normal = s.normal := rfl
@[simp] theorem armCompare_callback (v : Word) : (armCompare v s).callback = s.callback := rfl
@[simp] theorem armCompare_seq (v : Word) : (armCompare v s).seq = s.seq := rfl
@[simp] theorem armCompare_seqArg (v : Word) : (armCompare v s).seqArg = s.seqArg := rfl
@[simp] theorem armCompare_seqCtx (v : Word) : (armCompare v s).seqCtx = s.seqCtx := rfl
@[simp] theorem armCompare_seqOpc (v : Word) : (armCompare v s).seqOpc = s.seqOpc := rfl
@[simp] theorem armCompare_result (v : Word) : (armCompare v s).result = s.result := rfl
@[simp] theorem armCompare_schedule (v : Word) : (armCompare v s).schedule = s.schedule := rfl
@[simp] theorem armCompare_draws (v : Word) : (armCompare v s).draws = s.draws := rfl
@[simp] theorem armCompare_lastRead (v : Word) : (armCompare v s).lastRead = s.lastRead := rfl

@[simp] theorem enterIssue_seqCtx : (enterIssue s).seqCtx = s.ctx := rfl
@[simp] theorem enterIssue_cfg : (enterIssue s).cfg = s.cfg := rfl
@[simp] theorem enterIssue_counter : (enterIssue s).counter = s.counter := rfl
@[simp] theorem enterIssue_compare : (enterIssue s).compare = s.compare := rfl
@[simp] theorem enterIssue_pending : (enterIssue s).pending = s.pending := rfl
@[simp] theorem enterIssue_ie : (enterIssue s).ie = s.ie := rfl
@[simp] theorem enterIssue_capture : (enterIssue s).capture = s.capture := rfl
@[simp] theorem enterIssue_near : (enterIssue s).near = s.near := rfl
@[simp] theorem enterIssue_run : (enterIssue s).run = s.run := rfl
@[simp] theorem enterIssue_astate : (enterIssue s).astate = s.astate := rfl
@[simp] theorem enterIssue_initDone : (enterIssue s).initDone = s.initDone := rfl
@[simp] theorem enterIssue_fault : (enterIssue s).fault = s.fault := rfl
@[simp] theorem enterIssue_faultInfo : (enterIssue s).faultInfo = s.faultInfo := rfl
@[simp] theorem enterIssue_ctx : (enterIssue s).ctx = s.ctx := rfl
@[simp] theorem enterIssue_normal : (enterIssue s).normal = s.normal := rfl
@[simp] theorem enterIssue_callback : (enterIssue s).callback = s.callback := rfl
@[simp] theorem enterIssue_seq : (enterIssue s).seq = s.seq := rfl
@[simp] theorem enterIssue_seqArg : (enterIssue s).seqArg = s.seqArg := rfl
@[simp] theorem enterIssue_seqOpc : (enterIssue s).seqOpc = s.seqOpc := rfl
@[simp] theorem enterIssue_result : (enterIssue s).result = s.result := rfl
@[simp] theorem enterIssue_hist : (enterIssue s).hist = s.hist := rfl
@[simp] theorem enterIssue_schedule : (enterIssue s).schedule = s.schedule := rfl
@[simp] theorem enterIssue_draws : (enterIssue s).draws = s.draws := rfl
@[simp] theorem enterIssue_lastRead : (enterIssue s).lastRead = s.lastRead := rfl

@[simp] theorem answerFault_seqCtx : (answerFault s).seqCtx = s.ctx := rfl
@[simp] theorem answerFault_cfg : (answerFault s).cfg = s.cfg := rfl
@[simp] theorem answerFault_counter : (answerFault s).counter = s.counter := rfl
@[simp] theorem answerFault_compare : (answerFault s).compare = s.compare := rfl
@[simp] theorem answerFault_pending : (answerFault s).pending = s.pending := rfl
@[simp] theorem answerFault_ie : (answerFault s).ie = s.ie := rfl
@[simp] theorem answerFault_capture : (answerFault s).capture = s.capture := rfl
@[simp] theorem answerFault_near : (answerFault s).near = s.near := rfl
@[simp] theorem answerFault_run : (answerFault s).run = s.run := rfl
@[simp] theorem answerFault_astate : (answerFault s).astate = s.astate := rfl
@[simp] theorem answerFault_initDone : (answerFault s).initDone = s.initDone := rfl
@[simp] theorem answerFault_fault : (answerFault s).fault = s.fault := rfl
@[simp] theorem answerFault_faultInfo : (answerFault s).faultInfo = s.faultInfo := rfl
@[simp] theorem answerFault_ctx : (answerFault s).ctx = s.ctx := rfl
@[simp] theorem answerFault_seq : (answerFault s).seq = s.seq := rfl
@[simp] theorem answerFault_seqArg : (answerFault s).seqArg = s.seqArg := rfl
@[simp] theorem answerFault_seqOpc : (answerFault s).seqOpc = s.seqOpc := rfl
@[simp] theorem answerFault_result : (answerFault s).result = s.result := rfl
@[simp] theorem answerFault_hist : (answerFault s).hist = s.hist := rfl
@[simp] theorem answerFault_schedule : (answerFault s).schedule = s.schedule := rfl
@[simp] theorem answerFault_draws : (answerFault s).draws = s.draws := rfl
@[simp] theorem answerFault_lastRead : (answerFault s).lastRead = s.lastRead := rfl

@[simp] theorem loadSequence_seqCtx (opc : Byte) (q : List Instr) : (loadSequence opc q s).seqCtx = s.ctx := rfl
@[simp] theorem loadSequence_seqOpc (opc : Byte) (q : List Instr) : (loadSequence opc q s).seqOpc = opc := rfl
@[simp] theorem loadSequence_seqArg (opc : Byte) (q : List Instr) : (loadSequence opc q s).seqArg = (bankOf s s.ctx).arg := rfl
@[simp] theorem loadSequence_result (opc : Byte) (q : List Instr) : (loadSequence opc q s).result = 0 := rfl
@[simp] theorem loadSequence_seq (opc : Byte) (q : List Instr) : (loadSequence opc q s).seq = q.map Instr.code := rfl
@[simp] theorem loadSequence_cfg (opc : Byte) (q : List Instr) : (loadSequence opc q s).cfg = s.cfg := rfl
@[simp] theorem loadSequence_counter (opc : Byte) (q : List Instr) : (loadSequence opc q s).counter = s.counter := rfl
@[simp] theorem loadSequence_compare (opc : Byte) (q : List Instr) : (loadSequence opc q s).compare = s.compare := rfl
@[simp] theorem loadSequence_pending (opc : Byte) (q : List Instr) : (loadSequence opc q s).pending = s.pending := rfl
@[simp] theorem loadSequence_ie (opc : Byte) (q : List Instr) : (loadSequence opc q s).ie = s.ie := rfl
@[simp] theorem loadSequence_capture (opc : Byte) (q : List Instr) : (loadSequence opc q s).capture = s.capture := rfl
@[simp] theorem loadSequence_near (opc : Byte) (q : List Instr) : (loadSequence opc q s).near = s.near := rfl
@[simp] theorem loadSequence_run (opc : Byte) (q : List Instr) : (loadSequence opc q s).run = s.run := rfl
@[simp] theorem loadSequence_astate (opc : Byte) (q : List Instr) : (loadSequence opc q s).astate = s.astate := rfl
@[simp] theorem loadSequence_initDone (opc : Byte) (q : List Instr) : (loadSequence opc q s).initDone = s.initDone := rfl
@[simp] theorem loadSequence_fault (opc : Byte) (q : List Instr) : (loadSequence opc q s).fault = s.fault := rfl
@[simp] theorem loadSequence_faultInfo (opc : Byte) (q : List Instr) : (loadSequence opc q s).faultInfo = s.faultInfo := rfl
@[simp] theorem loadSequence_ctx (opc : Byte) (q : List Instr) : (loadSequence opc q s).ctx = s.ctx := rfl
@[simp] theorem loadSequence_normal (opc : Byte) (q : List Instr) : (loadSequence opc q s).normal = s.normal := rfl
@[simp] theorem loadSequence_callback (opc : Byte) (q : List Instr) : (loadSequence opc q s).callback = s.callback := rfl
@[simp] theorem loadSequence_hist (opc : Byte) (q : List Instr) : (loadSequence opc q s).hist = s.hist := rfl
@[simp] theorem loadSequence_schedule (opc : Byte) (q : List Instr) : (loadSequence opc q s).schedule = s.schedule := rfl
@[simp] theorem loadSequence_draws (opc : Byte) (q : List Instr) : (loadSequence opc q s).draws = s.draws := rfl
@[simp] theorem loadSequence_lastRead (opc : Byte) (q : List Instr) : (loadSequence opc q s).lastRead = s.lastRead := rfl

@[simp] theorem finishUop_cfg : (finishUop s).cfg = s.cfg := by unfold finishUop; split <;> rfl
@[simp] theorem finishUop_counter : (finishUop s).counter = s.counter := by unfold finishUop; split <;> rfl
@[simp] theorem finishUop_compare : (finishUop s).compare = s.compare := by unfold finishUop; split <;> rfl
@[simp] theorem finishUop_pending : (finishUop s).pending = s.pending := by unfold finishUop; split <;> rfl
@[simp] theorem finishUop_ie : (finishUop s).ie = s.ie := by unfold finishUop; split <;> rfl
@[simp] theorem finishUop_capture : (finishUop s).capture = s.capture := by unfold finishUop; split <;> rfl
@[simp] theorem finishUop_near : (finishUop s).near = s.near := by unfold finishUop; split <;> rfl
@[simp] theorem finishUop_run : (finishUop s).run = s.run := by unfold finishUop; split <;> rfl
@[simp] theorem finishUop_astate : (finishUop s).astate = s.astate := by unfold finishUop; split <;> rfl
@[simp] theorem finishUop_initDone : (finishUop s).initDone = s.initDone := by unfold finishUop; split <;> rfl
@[simp] theorem finishUop_fault : (finishUop s).fault = s.fault := by unfold finishUop; split <;> rfl
@[simp] theorem finishUop_faultInfo : (finishUop s).faultInfo = s.faultInfo := by unfold finishUop; split <;> rfl
@[simp] theorem finishUop_ctx : (finishUop s).ctx = s.ctx := by unfold finishUop; split <;> rfl
@[simp] theorem finishUop_seq : (finishUop s).seq = s.seq := by unfold finishUop; split <;> rfl
@[simp] theorem finishUop_seqArg : (finishUop s).seqArg = s.seqArg := by unfold finishUop; split <;> rfl
@[simp] theorem finishUop_seqCtx : (finishUop s).seqCtx = s.seqCtx := by unfold finishUop; split <;> rfl
@[simp] theorem finishUop_seqOpc : (finishUop s).seqOpc = s.seqOpc := by unfold finishUop; split <;> rfl
@[simp] theorem finishUop_result : (finishUop s).result = s.result := by unfold finishUop; split <;> rfl
@[simp] theorem finishUop_hist : (finishUop s).hist = s.hist := by unfold finishUop; split <;> rfl
@[simp] theorem finishUop_schedule : (finishUop s).schedule = s.schedule := by unfold finishUop; split <;> rfl
@[simp] theorem finishUop_draws : (finishUop s).draws = s.draws := by unfold finishUop; split <;> rfl
@[simp] theorem finishUop_lastRead : (finishUop s).lastRead = s.lastRead := by unfold finishUop; split <;> rfl

@[simp] theorem enterService_ctx : (enterService s).ctx = .service := rfl
@[simp] theorem enterService_seqCtx : (enterService s).seqCtx = .service := rfl
@[simp] theorem enterService_seqOpc : (enterService s).seqOpc = 0 := rfl
@[simp] theorem enterService_seqArg : (enterService s).seqArg = 0 := rfl
@[simp] theorem enterService_result : (enterService s).result = 0 := rfl
@[simp] theorem enterService_seq : (enterService s).seq = (serviceSequence s.cfg).map Instr.code := rfl
@[simp] theorem enterService_cfg : (enterService s).cfg = s.cfg := rfl
@[simp] theorem enterService_counter : (enterService s).counter = s.counter := rfl
@[simp] theorem enterService_compare : (enterService s).compare = s.compare := rfl
@[simp] theorem enterService_pending : (enterService s).pending = s.pending := rfl
@[simp] theorem enterService_ie : (enterService s).ie = s.ie := rfl
@[simp] theorem enterService_capture : (enterService s).capture = s.capture := rfl
@[simp] theorem enterService_near : (enterService s).near = s.near := rfl
@[simp] theorem enterService_run : (enterService s).run = s.run := rfl
@[simp] theorem enterService_astate : (enterService s).astate = s.astate := rfl
@[simp] theorem enterService_initDone : (enterService s).initDone = s.initDone := rfl
@[simp] theorem enterService_fault : (enterService s).fault = s.fault := rfl
@[simp] theorem enterService_faultInfo : (enterService s).faultInfo = s.faultInfo := rfl
@[simp] theorem enterService_normal : (enterService s).normal = s.normal := rfl
@[simp] theorem enterService_callback : (enterService s).callback = s.callback := rfl
@[simp] theorem enterService_hist : (enterService s).hist = s.hist := rfl
@[simp] theorem enterService_schedule : (enterService s).schedule = s.schedule := rfl
@[simp] theorem enterService_draws : (enterService s).draws = s.draws := rfl
@[simp] theorem enterService_lastRead : (enterService s).lastRead = s.lastRead := rfl

@[simp] theorem enterCallback_hist : (enterCallback s).hist = s.hist ++ [.notify] := rfl
@[simp] theorem enterCallback_ctx : (enterCallback s).ctx = .callback := rfl
@[simp] theorem enterCallback_cfg : (enterCallback s).cfg = s.cfg := rfl
@[simp] theorem enterCallback_counter : (enterCallback s).counter = s.counter := rfl
@[simp] theorem enterCallback_compare : (enterCallback s).compare = s.compare := rfl
@[simp] theorem enterCallback_pending : (enterCallback s).pending = s.pending := rfl
@[simp] theorem enterCallback_ie : (enterCallback s).ie = s.ie := rfl
@[simp] theorem enterCallback_capture : (enterCallback s).capture = s.capture := rfl
@[simp] theorem enterCallback_near : (enterCallback s).near = s.near := rfl
@[simp] theorem enterCallback_run : (enterCallback s).run = s.run := rfl
@[simp] theorem enterCallback_astate : (enterCallback s).astate = s.astate := rfl
@[simp] theorem enterCallback_initDone : (enterCallback s).initDone = s.initDone := rfl
@[simp] theorem enterCallback_fault : (enterCallback s).fault = s.fault := rfl
@[simp] theorem enterCallback_faultInfo : (enterCallback s).faultInfo = s.faultInfo := rfl
@[simp] theorem enterCallback_normal : (enterCallback s).normal = s.normal := rfl
@[simp] theorem enterCallback_callback : (enterCallback s).callback = s.callback := rfl
@[simp] theorem enterCallback_seq : (enterCallback s).seq = s.seq := rfl
@[simp] theorem enterCallback_seqArg : (enterCallback s).seqArg = s.seqArg := rfl
@[simp] theorem enterCallback_seqCtx : (enterCallback s).seqCtx = s.seqCtx := rfl
@[simp] theorem enterCallback_seqOpc : (enterCallback s).seqOpc = s.seqOpc := rfl
@[simp] theorem enterCallback_result : (enterCallback s).result = s.result := rfl
@[simp] theorem enterCallback_schedule : (enterCallback s).schedule = s.schedule := rfl
@[simp] theorem enterCallback_draws : (enterCallback s).draws = s.draws := rfl
@[simp] theorem enterCallback_lastRead : (enterCallback s).lastRead = s.lastRead := rfl

@[simp] theorem returnFromCallback_ctx : (returnFromCallback s).ctx = .normal := rfl
@[simp] theorem returnFromCallback_cfg : (returnFromCallback s).cfg = s.cfg := rfl
@[simp] theorem returnFromCallback_counter : (returnFromCallback s).counter = s.counter := rfl
@[simp] theorem returnFromCallback_compare : (returnFromCallback s).compare = s.compare := rfl
@[simp] theorem returnFromCallback_pending : (returnFromCallback s).pending = s.pending := rfl
@[simp] theorem returnFromCallback_ie : (returnFromCallback s).ie = s.ie := rfl
@[simp] theorem returnFromCallback_capture : (returnFromCallback s).capture = s.capture := rfl
@[simp] theorem returnFromCallback_near : (returnFromCallback s).near = s.near := rfl
@[simp] theorem returnFromCallback_run : (returnFromCallback s).run = s.run := rfl
@[simp] theorem returnFromCallback_astate : (returnFromCallback s).astate = s.astate := rfl
@[simp] theorem returnFromCallback_initDone : (returnFromCallback s).initDone = s.initDone := rfl
@[simp] theorem returnFromCallback_fault : (returnFromCallback s).fault = s.fault := rfl
@[simp] theorem returnFromCallback_faultInfo : (returnFromCallback s).faultInfo = s.faultInfo := rfl
@[simp] theorem returnFromCallback_normal : (returnFromCallback s).normal = s.normal := rfl
@[simp] theorem returnFromCallback_callback : (returnFromCallback s).callback = s.callback := rfl
@[simp] theorem returnFromCallback_seq : (returnFromCallback s).seq = s.seq := rfl
@[simp] theorem returnFromCallback_seqArg : (returnFromCallback s).seqArg = s.seqArg := rfl
@[simp] theorem returnFromCallback_seqCtx : (returnFromCallback s).seqCtx = s.seqCtx := rfl
@[simp] theorem returnFromCallback_seqOpc : (returnFromCallback s).seqOpc = s.seqOpc := rfl
@[simp] theorem returnFromCallback_result : (returnFromCallback s).result = s.result := rfl
@[simp] theorem returnFromCallback_hist : (returnFromCallback s).hist = s.hist := rfl
@[simp] theorem returnFromCallback_schedule : (returnFromCallback s).schedule = s.schedule := rfl
@[simp] theorem returnFromCallback_draws : (returnFromCallback s).draws = s.draws := rfl
@[simp] theorem returnFromCallback_lastRead : (returnFromCallback s).lastRead = s.lastRead := rfl

@[simp] theorem setUp_ie : (setUp s).ie = false := rfl
@[simp] theorem setUp_pending : (setUp s).pending = false := rfl
@[simp] theorem setUp_near : (setUp s).near = false := rfl
@[simp] theorem setUp_astate : (setUp s).astate = .disarmed := rfl
@[simp] theorem setUp_run : (setUp s).run = true := rfl
@[simp] theorem setUp_initDone : (setUp s).initDone = true := rfl
@[simp] theorem setUp_result : (setUp s).result = 0 := rfl
@[simp] theorem setUp_cfg : (setUp s).cfg = s.cfg := rfl
@[simp] theorem setUp_counter : (setUp s).counter = s.counter := rfl
@[simp] theorem setUp_compare : (setUp s).compare = s.compare := rfl
@[simp] theorem setUp_capture : (setUp s).capture = s.capture := rfl
@[simp] theorem setUp_fault : (setUp s).fault = s.fault := rfl
@[simp] theorem setUp_faultInfo : (setUp s).faultInfo = s.faultInfo := rfl
@[simp] theorem setUp_ctx : (setUp s).ctx = s.ctx := rfl
@[simp] theorem setUp_normal : (setUp s).normal = s.normal := rfl
@[simp] theorem setUp_callback : (setUp s).callback = s.callback := rfl
@[simp] theorem setUp_seq : (setUp s).seq = s.seq := rfl
@[simp] theorem setUp_seqArg : (setUp s).seqArg = s.seqArg := rfl
@[simp] theorem setUp_seqCtx : (setUp s).seqCtx = s.seqCtx := rfl
@[simp] theorem setUp_seqOpc : (setUp s).seqOpc = s.seqOpc := rfl
@[simp] theorem setUp_hist : (setUp s).hist = s.hist := rfl
@[simp] theorem setUp_schedule : (setUp s).schedule = s.schedule := rfl
@[simp] theorem setUp_draws : (setUp s).draws = s.draws := rfl
@[simp] theorem setUp_lastRead : (setUp s).lastRead = s.lastRead := rfl

@[simp] theorem tickWith_counter (b : Bool) : (tickWith b s).counter = addW (width s.cfg) s.counter 1 := rfl
@[simp] theorem tickWith_cfg (b : Bool) : (tickWith b s).cfg = s.cfg := rfl
@[simp] theorem tickWith_compare (b : Bool) : (tickWith b s).compare = s.compare := rfl
@[simp] theorem tickWith_ie (b : Bool) : (tickWith b s).ie = s.ie := rfl
@[simp] theorem tickWith_capture (b : Bool) : (tickWith b s).capture = s.capture := rfl
@[simp] theorem tickWith_run (b : Bool) : (tickWith b s).run = s.run := rfl
@[simp] theorem tickWith_astate (b : Bool) : (tickWith b s).astate = s.astate := rfl
@[simp] theorem tickWith_initDone (b : Bool) : (tickWith b s).initDone = s.initDone := rfl
@[simp] theorem tickWith_fault (b : Bool) : (tickWith b s).fault = s.fault := rfl
@[simp] theorem tickWith_faultInfo (b : Bool) : (tickWith b s).faultInfo = s.faultInfo := rfl
@[simp] theorem tickWith_ctx (b : Bool) : (tickWith b s).ctx = s.ctx := rfl
@[simp] theorem tickWith_normal (b : Bool) : (tickWith b s).normal = s.normal := rfl
@[simp] theorem tickWith_callback (b : Bool) : (tickWith b s).callback = s.callback := rfl
@[simp] theorem tickWith_seq (b : Bool) : (tickWith b s).seq = s.seq := rfl
@[simp] theorem tickWith_seqArg (b : Bool) : (tickWith b s).seqArg = s.seqArg := rfl
@[simp] theorem tickWith_seqCtx (b : Bool) : (tickWith b s).seqCtx = s.seqCtx := rfl
@[simp] theorem tickWith_seqOpc (b : Bool) : (tickWith b s).seqOpc = s.seqOpc := rfl
@[simp] theorem tickWith_result (b : Bool) : (tickWith b s).result = s.result := rfl
@[simp] theorem tickWith_schedule (b : Bool) : (tickWith b s).schedule = s.schedule := rfl
@[simp] theorem tickWith_draws (b : Bool) : (tickWith b s).draws = s.draws := rfl
@[simp] theorem tickWith_lastRead (b : Bool) : (tickWith b s).lastRead = s.lastRead := rfl

@[simp] theorem countDraw_cfg : (countDraw s).cfg = s.cfg := rfl
@[simp] theorem countDraw_counter : (countDraw s).counter = s.counter := rfl
@[simp] theorem countDraw_compare : (countDraw s).compare = s.compare := rfl
@[simp] theorem countDraw_pending : (countDraw s).pending = s.pending := rfl
@[simp] theorem countDraw_ie : (countDraw s).ie = s.ie := rfl
@[simp] theorem countDraw_capture : (countDraw s).capture = s.capture := rfl
@[simp] theorem countDraw_near : (countDraw s).near = s.near := rfl
@[simp] theorem countDraw_run : (countDraw s).run = s.run := rfl
@[simp] theorem countDraw_astate : (countDraw s).astate = s.astate := rfl
@[simp] theorem countDraw_initDone : (countDraw s).initDone = s.initDone := rfl
@[simp] theorem countDraw_fault : (countDraw s).fault = s.fault := rfl
@[simp] theorem countDraw_faultInfo : (countDraw s).faultInfo = s.faultInfo := rfl
@[simp] theorem countDraw_ctx : (countDraw s).ctx = s.ctx := rfl
@[simp] theorem countDraw_normal : (countDraw s).normal = s.normal := rfl
@[simp] theorem countDraw_callback : (countDraw s).callback = s.callback := rfl
@[simp] theorem countDraw_seq : (countDraw s).seq = s.seq := rfl
@[simp] theorem countDraw_seqArg : (countDraw s).seqArg = s.seqArg := rfl
@[simp] theorem countDraw_seqCtx : (countDraw s).seqCtx = s.seqCtx := rfl
@[simp] theorem countDraw_seqOpc : (countDraw s).seqOpc = s.seqOpc := rfl
@[simp] theorem countDraw_result : (countDraw s).result = s.result := rfl
@[simp] theorem countDraw_hist : (countDraw s).hist = s.hist := rfl
@[simp] theorem countDraw_schedule : (countDraw s).schedule = s.schedule := rfl
@[simp] theorem countDraw_lastRead : (countDraw s).lastRead = s.lastRead := rfl

@[simp] theorem tick_cfg : (tick s).cfg = s.cfg := by unfold tick; split <;> simp
@[simp] theorem tick_compare : (tick s).compare = s.compare := by unfold tick; split <;> simp
@[simp] theorem tick_ie : (tick s).ie = s.ie := by unfold tick; split <;> simp
@[simp] theorem tick_capture : (tick s).capture = s.capture := by unfold tick; split <;> simp
@[simp] theorem tick_run : (tick s).run = s.run := by unfold tick; split <;> simp
@[simp] theorem tick_astate : (tick s).astate = s.astate := by unfold tick; split <;> simp
@[simp] theorem tick_initDone : (tick s).initDone = s.initDone := by unfold tick; split <;> simp
@[simp] theorem tick_fault : (tick s).fault = s.fault := by unfold tick; split <;> simp
@[simp] theorem tick_faultInfo : (tick s).faultInfo = s.faultInfo := by unfold tick; split <;> simp
@[simp] theorem tick_ctx : (tick s).ctx = s.ctx := by unfold tick; split <;> simp
@[simp] theorem tick_normal : (tick s).normal = s.normal := by unfold tick; split <;> simp
@[simp] theorem tick_callback : (tick s).callback = s.callback := by unfold tick; split <;> simp
@[simp] theorem tick_seq : (tick s).seq = s.seq := by unfold tick; split <;> simp
@[simp] theorem tick_seqArg : (tick s).seqArg = s.seqArg := by unfold tick; split <;> simp
@[simp] theorem tick_seqCtx : (tick s).seqCtx = s.seqCtx := by unfold tick; split <;> simp
@[simp] theorem tick_seqOpc : (tick s).seqOpc = s.seqOpc := by unfold tick; split <;> simp
@[simp] theorem tick_result : (tick s).result = s.result := by unfold tick; split <;> simp
@[simp] theorem tick_schedule : (tick s).schedule = s.schedule := by unfold tick; split <;> simp
@[simp] theorem tick_lastRead : (tick s).lastRead = s.lastRead := by unfold tick; split <;> simp

@[simp] theorem accept_cfg : (accept s).cfg = s.cfg := by unfold accept; split <;> rfl
@[simp] theorem accept_counter : (accept s).counter = s.counter := by unfold accept; split <;> rfl
@[simp] theorem accept_compare : (accept s).compare = s.compare := by unfold accept; split <;> rfl
@[simp] theorem accept_pending : (accept s).pending = s.pending := by unfold accept; split <;> rfl
@[simp] theorem accept_ie : (accept s).ie = s.ie := by unfold accept; split <;> rfl
@[simp] theorem accept_capture : (accept s).capture = s.capture := by unfold accept; split <;> rfl
@[simp] theorem accept_near : (accept s).near = s.near := by unfold accept; split <;> rfl
@[simp] theorem accept_run : (accept s).run = s.run := by unfold accept; split <;> rfl
@[simp] theorem accept_astate : (accept s).astate = s.astate := by unfold accept; split <;> rfl
@[simp] theorem accept_initDone : (accept s).initDone = s.initDone := by unfold accept; split <;> rfl
@[simp] theorem accept_fault : (accept s).fault = s.fault := by unfold accept; split <;> rfl
@[simp] theorem accept_faultInfo : (accept s).faultInfo = s.faultInfo := by unfold accept; split <;> rfl
@[simp] theorem accept_normal : (accept s).normal = s.normal := by unfold accept; split <;> rfl
@[simp] theorem accept_callback : (accept s).callback = s.callback := by unfold accept; split <;> rfl
@[simp] theorem accept_hist : (accept s).hist = s.hist := by unfold accept; split <;> rfl
@[simp] theorem accept_schedule : (accept s).schedule = s.schedule := by unfold accept; split <;> rfl
@[simp] theorem accept_draws : (accept s).draws = s.draws := by unfold accept; split <;> rfl
@[simp] theorem accept_lastRead : (accept s).lastRead = s.lastRead := by unfold accept; split <;> rfl

@[simp] theorem writeArg_cfg (v : Word) : (writeArg v s).cfg = s.cfg := rfl
@[simp] theorem writeArg_counter (v : Word) : (writeArg v s).counter = s.counter := rfl
@[simp] theorem writeArg_compare (v : Word) : (writeArg v s).compare = s.compare := rfl
@[simp] theorem writeArg_pending (v : Word) : (writeArg v s).pending = s.pending := rfl
@[simp] theorem writeArg_ie (v : Word) : (writeArg v s).ie = s.ie := rfl
@[simp] theorem writeArg_capture (v : Word) : (writeArg v s).capture = s.capture := rfl
@[simp] theorem writeArg_near (v : Word) : (writeArg v s).near = s.near := rfl
@[simp] theorem writeArg_run (v : Word) : (writeArg v s).run = s.run := rfl
@[simp] theorem writeArg_astate (v : Word) : (writeArg v s).astate = s.astate := rfl
@[simp] theorem writeArg_initDone (v : Word) : (writeArg v s).initDone = s.initDone := rfl
@[simp] theorem writeArg_fault (v : Word) : (writeArg v s).fault = s.fault := rfl
@[simp] theorem writeArg_faultInfo (v : Word) : (writeArg v s).faultInfo = s.faultInfo := rfl
@[simp] theorem writeArg_ctx (v : Word) : (writeArg v s).ctx = s.ctx := rfl
@[simp] theorem writeArg_seq (v : Word) : (writeArg v s).seq = s.seq := rfl
@[simp] theorem writeArg_seqArg (v : Word) : (writeArg v s).seqArg = s.seqArg := rfl
@[simp] theorem writeArg_seqCtx (v : Word) : (writeArg v s).seqCtx = s.seqCtx := rfl
@[simp] theorem writeArg_seqOpc (v : Word) : (writeArg v s).seqOpc = s.seqOpc := rfl
@[simp] theorem writeArg_result (v : Word) : (writeArg v s).result = s.result := rfl
@[simp] theorem writeArg_hist (v : Word) : (writeArg v s).hist = s.hist := rfl
@[simp] theorem writeArg_schedule (v : Word) : (writeArg v s).schedule = s.schedule := rfl
@[simp] theorem writeArg_draws (v : Word) : (writeArg v s).draws = s.draws := rfl
@[simp] theorem writeArg_lastRead (v : Word) : (writeArg v s).lastRead = s.lastRead := rfl

@[simp] theorem readPort_lastRead (r : PortReg) : (readPort r s).lastRead = some (portValue r s) := rfl
@[simp] theorem readPort_cfg (r : PortReg) : (readPort r s).cfg = s.cfg := rfl
@[simp] theorem readPort_counter (r : PortReg) : (readPort r s).counter = s.counter := rfl
@[simp] theorem readPort_compare (r : PortReg) : (readPort r s).compare = s.compare := rfl
@[simp] theorem readPort_pending (r : PortReg) : (readPort r s).pending = s.pending := rfl
@[simp] theorem readPort_ie (r : PortReg) : (readPort r s).ie = s.ie := rfl
@[simp] theorem readPort_capture (r : PortReg) : (readPort r s).capture = s.capture := rfl
@[simp] theorem readPort_near (r : PortReg) : (readPort r s).near = s.near := rfl
@[simp] theorem readPort_run (r : PortReg) : (readPort r s).run = s.run := rfl
@[simp] theorem readPort_astate (r : PortReg) : (readPort r s).astate = s.astate := rfl
@[simp] theorem readPort_initDone (r : PortReg) : (readPort r s).initDone = s.initDone := rfl
@[simp] theorem readPort_fault (r : PortReg) : (readPort r s).fault = s.fault := rfl
@[simp] theorem readPort_faultInfo (r : PortReg) : (readPort r s).faultInfo = s.faultInfo := rfl
@[simp] theorem readPort_ctx (r : PortReg) : (readPort r s).ctx = s.ctx := rfl
@[simp] theorem readPort_normal (r : PortReg) : (readPort r s).normal = s.normal := rfl
@[simp] theorem readPort_callback (r : PortReg) : (readPort r s).callback = s.callback := rfl
@[simp] theorem readPort_seq (r : PortReg) : (readPort r s).seq = s.seq := rfl
@[simp] theorem readPort_seqArg (r : PortReg) : (readPort r s).seqArg = s.seqArg := rfl
@[simp] theorem readPort_seqCtx (r : PortReg) : (readPort r s).seqCtx = s.seqCtx := rfl
@[simp] theorem readPort_seqOpc (r : PortReg) : (readPort r s).seqOpc = s.seqOpc := rfl
@[simp] theorem readPort_result (r : PortReg) : (readPort r s).result = s.result := rfl
@[simp] theorem readPort_hist (r : PortReg) : (readPort r s).hist = s.hist := rfl
@[simp] theorem readPort_schedule (r : PortReg) : (readPort r s).schedule = s.schedule := rfl
@[simp] theorem readPort_draws (r : PortReg) : (readPort r s).draws = s.draws := rfl

@[simp] theorem badAccess_cfg (info : BitVec 24) : (badAccess info s).cfg = s.cfg := by unfold badAccess; split <;> simp
@[simp] theorem badAccess_counter (info : BitVec 24) : (badAccess info s).counter = s.counter := by unfold badAccess; split <;> simp
@[simp] theorem badAccess_compare (info : BitVec 24) : (badAccess info s).compare = s.compare := by unfold badAccess; split <;> simp
@[simp] theorem badAccess_pending (info : BitVec 24) : (badAccess info s).pending = s.pending := by unfold badAccess; split <;> simp
@[simp] theorem badAccess_ie (info : BitVec 24) : (badAccess info s).ie = s.ie := by unfold badAccess; split <;> simp
@[simp] theorem badAccess_capture (info : BitVec 24) : (badAccess info s).capture = s.capture := by unfold badAccess; split <;> simp
@[simp] theorem badAccess_near (info : BitVec 24) : (badAccess info s).near = s.near := by unfold badAccess; split <;> simp
@[simp] theorem badAccess_run (info : BitVec 24) : (badAccess info s).run = s.run := by unfold badAccess; split <;> simp
@[simp] theorem badAccess_astate (info : BitVec 24) : (badAccess info s).astate = s.astate := by unfold badAccess; split <;> simp
@[simp] theorem badAccess_initDone (info : BitVec 24) : (badAccess info s).initDone = s.initDone := by unfold badAccess; split <;> simp
@[simp] theorem badAccess_ctx (info : BitVec 24) : (badAccess info s).ctx = s.ctx := by unfold badAccess; split <;> simp
@[simp] theorem badAccess_seqArg (info : BitVec 24) : (badAccess info s).seqArg = s.seqArg := by unfold badAccess; split <;> simp
@[simp] theorem badAccess_seqOpc (info : BitVec 24) : (badAccess info s).seqOpc = s.seqOpc := by unfold badAccess; split <;> simp
@[simp] theorem badAccess_result (info : BitVec 24) : (badAccess info s).result = s.result := by unfold badAccess; split <;> simp
@[simp] theorem badAccess_hist (info : BitVec 24) : (badAccess info s).hist = s.hist := by unfold badAccess; split <;> simp
@[simp] theorem badAccess_schedule (info : BitVec 24) : (badAccess info s).schedule = s.schedule := by unfold badAccess; split <;> simp
@[simp] theorem badAccess_draws (info : BitVec 24) : (badAccess info s).draws = s.draws := by unfold badAccess; split <;> simp
@[simp] theorem badAccess_lastRead (info : BitVec 24) : (badAccess info s).lastRead = s.lastRead := by unfold badAccess; split <;> simp

@[simp] theorem rejectCommand_cfg (r : Reject) : (rejectCommand r s).cfg = s.cfg := by unfold rejectCommand; split <;> simp
@[simp] theorem rejectCommand_counter (r : Reject) : (rejectCommand r s).counter = s.counter := by unfold rejectCommand; split <;> simp
@[simp] theorem rejectCommand_compare (r : Reject) : (rejectCommand r s).compare = s.compare := by unfold rejectCommand; split <;> simp
@[simp] theorem rejectCommand_pending (r : Reject) : (rejectCommand r s).pending = s.pending := by unfold rejectCommand; split <;> simp
@[simp] theorem rejectCommand_ie (r : Reject) : (rejectCommand r s).ie = s.ie := by unfold rejectCommand; split <;> simp
@[simp] theorem rejectCommand_capture (r : Reject) : (rejectCommand r s).capture = s.capture := by unfold rejectCommand; split <;> simp
@[simp] theorem rejectCommand_near (r : Reject) : (rejectCommand r s).near = s.near := by unfold rejectCommand; split <;> simp
@[simp] theorem rejectCommand_run (r : Reject) : (rejectCommand r s).run = s.run := by unfold rejectCommand; split <;> simp
@[simp] theorem rejectCommand_astate (r : Reject) : (rejectCommand r s).astate = s.astate := by unfold rejectCommand; split <;> simp
@[simp] theorem rejectCommand_initDone (r : Reject) : (rejectCommand r s).initDone = s.initDone := by unfold rejectCommand; split <;> simp
@[simp] theorem rejectCommand_ctx (r : Reject) : (rejectCommand r s).ctx = s.ctx := by unfold rejectCommand; split <;> simp
@[simp] theorem rejectCommand_seqArg (r : Reject) : (rejectCommand r s).seqArg = s.seqArg := by unfold rejectCommand; split <;> simp
@[simp] theorem rejectCommand_seqOpc (r : Reject) : (rejectCommand r s).seqOpc = s.seqOpc := by unfold rejectCommand; split <;> simp
@[simp] theorem rejectCommand_result (r : Reject) : (rejectCommand r s).result = s.result := by unfold rejectCommand; split <;> simp
@[simp] theorem rejectCommand_hist (r : Reject) : (rejectCommand r s).hist = s.hist := by unfold rejectCommand; split <;> simp
@[simp] theorem rejectCommand_schedule (r : Reject) : (rejectCommand r s).schedule = s.schedule := by unfold rejectCommand; split <;> simp
@[simp] theorem rejectCommand_draws (r : Reject) : (rejectCommand r s).draws = s.draws := by unfold rejectCommand; split <;> simp
@[simp] theorem rejectCommand_lastRead (r : Reject) : (rejectCommand r s).lastRead = s.lastRead := by unfold rejectCommand; split <;> simp

end Sys2Proof.Laws
end

