-- ==== Sys2Proof/Laws/Ops.lean ====
section
/-!
SUPPORT. One lemma per shared operation that says once everything it can do: a command's dispatch, a μop's step, raising a
fault, the response; and that every meaning answers a next state.
-/

namespace Sys2Proof.Laws

open Sys2Proof.Machine

theorem held_eq_false {s : State} : held s = false ↔ s.seq = [] ∧ s.ctx ≠ .service := by
  simp [held, busy]

theorem acceptEnabled_iff {s : State} : acceptEnabled s = true ↔
    s.fault = 0 ∧ s.initDone = true ∧ s.ctx = .normal ∧ s.seq = [] ∧ s.pending = true ∧ s.ie = true := by
  simp [acceptEnabled, busy, irq, and_assoc]

/-- The dispatch of a command, its four outcomes in order (R43, R44, R103). -/
theorem issue_cases (opc : Byte) (q : List Instr) (s : State) : ∃ t, issue opc q s = .next t ∧
    ((held s = true ∧ t = s) ∨
     (held s = false ∧ s.fault ≠ 0 ∧ t = answerFault s) ∨
     (held s = false ∧ s.fault = 0 ∧ ∃ c i, dispatchFault opc s = some (c, i) ∧ t = recordFault c i (enterIssue s)) ∨
     (held s = false ∧ s.fault = 0 ∧ dispatchFault opc s = none ∧ t = loadSequence opc q s)) := by
  unfold issue raiseFault
  cases hh : held s <;> by_cases hf : s.fault = 0 <;> cases hd : dispatchFault opc s <;> simp_all
  exact ⟨_, _, rfl, rfl⟩

/-- A held command waits (R43). -/
theorem issue_held {opc : Byte} {q : List Instr} {s : State} (hh : held s = true) : issue opc q s = .next s := by
  simp [issue, hh]

/-- After a fault a command answers the record (R44). -/
theorem issue_faulted {opc : Byte} {q : List Instr} {s : State} (hh : held s = false) (hf : s.fault ≠ 0) :
    issue opc q s = .next (answerFault s) := by
  simp only [issue, hh, Bool.false_eq_true, if_false, if_pos hf]

/-- The dispatch when nothing holds or turns away the command: its own checks, then the sequence (R103). -/
theorem issue_ready {opc : Byte} {q : List Instr} {s : State} (hh : held s = false) (hf : s.fault = 0) :
    issue opc q s = match dispatchFault opc s with
      | some (code, info) => .next (raiseFault code info (enterIssue s))
      | none => .next (loadSequence opc q s) :=
  (if_neg (by simp [hh])).trans (if_neg (by simp [hf]))

/-- A sequencer step on a μop, its three outcomes (R105, R80). -/
theorem runUop_cases (u : Instr) (p : State → Except (Byte × BitVec 24) State) (s : State) : ∃ t, runUop u p s = .next t ∧
    ((uopAvailable s.cfg u = false ∧ t = raiseFault 0x17 (u.code.setWidth 24) s) ∨
     (uopAvailable s.cfg u = true ∧ ∃ r, p s = .ok r ∧ t = finishUop r) ∨
     (uopAvailable s.cfg u = true ∧ ∃ c i, p s = .error (c, i) ∧ t = raiseFault c i s)) := by
  unfold runUop
  cases ha : uopAvailable s.cfg u <;> cases hp : p s <;> simp
  exact ⟨_, _, rfl, rfl⟩

/-- A μop that cannot fault, on its backend, does its one thing and ends (R105). -/
theorem runTotal_available {u : Instr} {p : State → State} {s : State} (h : uopAvailable s.cfg u = true) :
    runTotal u p s = .next (finishUop (p s)) := by
  simp [runTotal, runUop, h]

/-- A μop the live backend lacks (R80). -/
theorem runUop_unavailable {u : Instr} {p : State → Except (Byte × BitVec 24) State} {s : State}
    (h : uopAvailable s.cfg u = false) : runUop u p s = .next (raiseFault 0x17 (u.code.setWidth 24) s) := by
  simp [runUop, h]

/-- What each μop performs, as one table; a command performs nothing here. -/
def performs : Instr → State → Except (Byte × BitVec 24) State
  | .uInit, s => match validateConfig s.cfg with
    | some f => .error f
    | none => .ok (setUp s)
  | .uReadCnt, s => .ok { s with result := s.counter }
  | .uCapture, s => .ok { s with capture := s.counter }
  | .uReadCap, s => .ok { s with result := s.capture }
  | .uArmArg, s => .ok (armCompare (deadline s) s)
  | .uArmPer, s => .ok (armCompare (addW (width s.cfg) s.compare s.cfg.period) s)
  | .uClr, s => .ok { s with pending := false }
  | .uIe1, s => .ok { s with ie := true }
  | .uIe0, s => .ok { s with ie := false }
  | .uQie, s => .ok { s with result := boolWord s.ie }
  | .uQshadow, s => .ok { s with result := boolWord (decide (s.astate = .armed)) }
  | .uRdcmp, s => .ok { s with result := s.compare }
  | .uArmed, s => .ok { s with astate := .armed }
  | .uDisarmed, s => .ok { s with astate := .disarmed }
  | .uNotify, s => .ok (enterCallback s)
  | .uCbret, s => .ok (returnFromCallback s)
  | .uStatus, s => .ok { s with result := statusWord s }
  | .uInfo, s => match infoItem s.cfg s.seqArg with
    | some v => .ok { s with result := v }
    | none => .error (0x15, s.seqArg.extractLsb' 0 24)
  | _, s => .ok s

/-- The sequence each command loads (R61), as one table; a μop loads none. -/
def sequenceOf (c : Config) : Instr → List Instr
  | .init => [.uInit]
  | .getCounter => if c.backendSel = 0 then [.uReadCnt] else [.uCapture, .uReadCap]
  | .start => [.uArmArg, .uClr, .uIe1, .uArmed]
  | .stop => [.uIe0, .uClr, .uDisarmed]
  | .set => [.uArmArg]
  | .get => [.uRdcmp]
  | .isActive => if c.backendSel = 0 then [.uQie] else [.uQshadow]
  | .cbret => [.uCbret]
  | .status => [.uStatus]
  | .info => [.uInfo]
  | _ => []

/-- Every μop's meaning is the one sequencer step on what it performs. -/
theorem exec_uop {i : Instr} (h : i.isUop = true) (s : State) : exec i s = runUop i (performs i) s := by
  cases i <;> first | rfl | cases h

/-- Every command's meaning is the one dispatch of its opcode and sequence. -/
theorem exec_command {i : Instr} (h : i.isCommand = true) (s : State) :
    exec i s = issue i.code (sequenceOf s.cfg i) s := by
  cases i <;> first | rfl | cases h

/-- Every meaning answers a next state, whatever the state: no instruction stops the machine (R131). -/
theorem exec_answers_next (i : Instr) (s : State) : ∃ t, exec i s = .next t := by
  cases h : i.isCommand with
  | true => rw [exec_command h]; exact (issue_cases _ _ s).imp fun _ h => h.1
  | false => rw [exec_uop (by simp [Instr.isUop, h])]; exact (runUop_cases _ _ s).imp fun _ h => h.1

end Sys2Proof.Laws
end

