-- ==== Sys2Proof/Laws/Port.lean ====
section
/-!
SUPPORT. What an access to the window asks of the block, register by register, and what the host's move answers for each.
-/

namespace Sys2Proof.Laws

open Sys2Proof.Machine

/-- A 32-bit write of CMD, its word in little-endian bytes (R36, R37, R39). -/
theorem portAction_cmd (c : Config) (b0 b1 b2 b3 : Byte) :
    portAction c (.write c.base [b0, b1, b2, b3]) = .command (leWord b0 b1 b2 b3) := by
  simp [portAction, Access.wf, accessAddr, writeAction]

theorem portAction_cmdWord (c : Config) (w : Word) : portAction c (.write c.base (wordBytes w)) = .command w := by
  simp [wordBytes, portAction_cmd]

/-- A 32-bit write of ARG (R36, R40). -/
theorem portAction_arg (c : Config) (v : Word) : portAction c (.write (c.base + 4) (wordBytes v)) = .writeArg v := by
  simp [portAction, Access.wf, accessAddr, writeAction, wordBytes]

/-- A 32-bit read of ARG, RVAL or RSTAT (R36, R40, R41). -/
theorem portAction_read (c : Config) (k : Nat) (hk : k = 4 ∨ k = 8 ∨ k = 12) :
    portAction c (.read (c.base + k) 4) = .readReg (if k = 4 then .arg else if k = 8 then .rval else .rstat) := by
  rcases hk with rfl | rfl | rfl <;> simp [portAction, Access.wf, accessAddr, readAction]

/-- An access that starts in the window (R35). -/
theorem portAction_window {c : Config} {a : Access} {off : Nat} (hw : a.wf = true) (ha : accessAddr a = c.base + off)
    (ho : off < 16) : portAction c a = match a with
      | .read _ size => readAction off size
      | .write _ bytes => writeAction off bytes := by
  cases a <;> simp only [accessAddr] at ha <;> subst ha <;> simp [portAction, hw, accessAddr, ho]

section
variable {a : Access} {s : State}

theorem hostAccess_command {w : Word} {i : Instr} (hp : portAction s.cfg a = .command w) (hd : decodeCmd w = .ok i) :
    hostAccess a s = exec i s := by simp only [hostAccess, hp, hd]

theorem hostAccess_rejected {w : Word} {r : Reject} (hp : portAction s.cfg a = .command w)
    (hd : decodeCmd w = .error r) : hostAccess a s = .next (rejectCommand r s) := by simp only [hostAccess, hp, hd]

theorem hostAccess_writeArg {v : Word} (hp : portAction s.cfg a = .writeArg v) :
    hostAccess a s = .next (writeArg v s) := by simp only [hostAccess, hp]

theorem hostAccess_readReg {r : PortReg} (hp : portAction s.cfg a = .readReg r) :
    hostAccess a s = .next (readPort r s) := by simp only [hostAccess, hp]

theorem hostAccess_bad {info : BitVec 24} (hp : portAction s.cfg a = .bad info) :
    hostAccess a s = .next (badAccess info s) := by simp only [hostAccess, hp]

theorem act_host_free (h : held s = false) : act (.host a) s = hostAccess a s := by simp [act, h]

theorem act_host_held (h : held s = true) :
    act (.host a) s = sequencerStep { s with schedule := .host a :: s.schedule } := by simp [act, h]

end

end Sys2Proof.Laws
end

