-- ==== Sys2Proof/Laws/Step.lean ====
section
/-!
SUPPORT. What one step can do: the inversion lemma of the sequencer, of the host's access, and of the step.
-/

namespace Sys2Proof.Laws

open Sys2Proof.Machine

/-- Taking the next move changes the schedule and the count of draws, and nothing else. -/
theorem takeMove_eq (s : State) :
    (takeMove s).2 = { s with schedule := (takeMove s).2.schedule, draws := (takeMove s).2.draws } := by
  unfold takeMove; split <;> rfl

/-- A scheduled move is the next one. -/
theorem step_of_schedule {s : State} {m : Move} {rest : List Move} (h : s.schedule = m :: rest) :
    step s = act m { s with schedule := rest } := by
  simp only [step, takeMove, h]

/-- A sequencer move answers a next state only with an empty `SEQ`, unchanged, or by its head μop (R105). -/
theorem sequencerStep_next {s t : State} (h : sequencerStep s = .next t) :
    (s.seq = [] ∧ t = s) ∨
    ∃ i q, i.isUop = true ∧ s.seq = i.code :: q ∧ exec i { s with seq := q } = .next t := by
  unfold sequencerStep at h
  cases hq : s.seq with
  | nil => rw [hq] at h; cases h; exact .inl ⟨rfl, rfl⟩
  | cons c q =>
    rw [hq] at h
    cases hd : decodeUop c with
    | error r => simp [hd] at h
    | ok i =>
      simp only [hd] at h
      obtain ⟨hu, rfl⟩ := decodeUop_sound hd
      exact .inr ⟨i, q, hu, rfl, h⟩

/-- An access that is not held, and that the block answers: a command's meaning, a rejected word, a register write or read,
or a bad access (R36 to R44). -/
theorem hostAccess_next {a : Access} {s t : State} (h : hostAccess a s = .next t) :
    (∃ w i, portAction s.cfg a = .command w ∧ decodeCmd w = .ok i ∧ i.isCommand = true ∧ exec i s = .next t) ∨
    (∃ w r, portAction s.cfg a = .command w ∧ decodeCmd w = .error r ∧ t = rejectCommand r s) ∨
    (∃ v, portAction s.cfg a = .writeArg v ∧ t = writeArg v s) ∨
    (∃ r, portAction s.cfg a = .readReg r ∧ t = readPort r s) ∨
    (∃ info, portAction s.cfg a = .bad info ∧ t = badAccess info s) := by
  unfold hostAccess at h
  cases hp : portAction s.cfg a with
  | command w =>
    simp only [hp] at h
    cases hd : decodeCmd w with
    | ok i =>
      simp only [hd] at h
      exact .inl ⟨w, i, rfl, hd, (decodeCmd_sound hd).1, h⟩
    | error r => simp only [hd] at h; cases h; exact .inr (.inl ⟨w, r, rfl, hd, rfl⟩)
  | writeArg v => simp only [hp] at h; cases h; exact .inr (.inr (.inl ⟨v, rfl, rfl⟩))
  | readReg r => simp only [hp] at h; cases h; exact .inr (.inr (.inr (.inl ⟨r, rfl, rfl⟩)))
  | bad info => simp only [hp] at h; cases h; exact .inr (.inr (.inr (.inr ⟨info, rfl, rfl⟩)))
  | outside => simp [hp] at h
  | notBus n => simp [hp] at h

/-- Everything a step that answers a next state can be, where `u` is the state with the next move taken off the schedule:
a tick, an acceptance, a sequencer move (its own, or in place of a held access `a`, which stays scheduled), or an access
that is not held. -/
theorem step_next {s t : State} (h : step s = .next t) : ∃ m u, takeMove s = (m, u) ∧
    ((m = .tick ∧ t = tick u) ∨ (m = .accept ∧ t = accept u) ∨
     (m = .sequencer ∧ sequencerStep u = .next t) ∨
     (∃ a, m = .host a ∧ held u = true ∧ sequencerStep { u with schedule := .host a :: u.schedule } = .next t) ∨
     (∃ a, m = .host a ∧ held u = false ∧ hostAccess a u = .next t)) := by
  refine ⟨(takeMove s).1, (takeMove s).2, rfl, ?_⟩
  unfold step act at h
  cases hm : (takeMove s).1 with
  | tick => simp only [hm] at h; cases h; simp
  | accept => simp only [hm] at h; cases h; simp
  | sequencer => simp only [hm] at h; simp [h]
  | host a =>
    simp only [hm] at h
    cases hh : held (takeMove s).2 <;> simp only [hh] at h <;> simp_all

end Sys2Proof.Laws
end

