-- ==== Sys2Proof/Laws/Frames.lean ====
section
/-!
SUPPORT. Frames: what a μop, a tick, an acceptance, a command's dispatch, a rejected word and a bad access may change, and
from them what any step may change.
-/

namespace Sys2Proof.Laws

open Sys2Proof.Machine

theorem code_injective {i j : Instr} (h : i.code = j.code) : i = j := by
  cases i <;> cases j <;> first | rfl | exact absurd h (by decide)

/-- The response changes the banks only. -/
theorem finishUop_frame (s : State) : ∃ n c, finishUop s = { s with normal := n, callback := c } := by
  unfold finishUop; split
  · exact ⟨_, _, rfl⟩
  · exact ⟨_, _, rfl⟩

/-- A raised fault changes the record, the sequence and the banks only. -/
theorem raiseFault_frame (c : Byte) (j : BitVec 24) (s : State) : ∃ f fi q n cb,
    raiseFault c j s = { s with fault := f, faultInfo := fi, seq := q, normal := n, callback := cb } := by
  unfold raiseFault; split
  · exact ⟨_, _, _, _, _, rfl⟩
  · exact ⟨_, _, _, _, _, rfl⟩

/-- A μop's three outcomes, on what it performs (R105, R80). -/
theorem exec_uop_cases {i : Instr} (hi : i.isUop = true) {s t : State} (h : exec i s = .next t) :
    (uopAvailable s.cfg i = false ∧ t = raiseFault 0x17 (i.code.setWidth 24) s) ∨
    (uopAvailable s.cfg i = true ∧ ∃ r, performs i s = .ok r ∧ t = finishUop r) ∨
    (uopAvailable s.cfg i = true ∧ ∃ c j, performs i s = .error (c, j) ∧ t = raiseFault c j s) := by
  rw [exec_uop hi] at h
  obtain ⟨t', h', hc⟩ := runUop_cases i (performs i) s
  rw [h'] at h; cases h; exact hc

/-- A command's three outcomes when it is not held (R44, R103). -/
theorem exec_command_cases {i : Instr} (hi : i.isCommand = true) {s t : State} (hh : held s = false)
    (h : exec i s = .next t) :
    (s.fault ≠ 0 ∧ t = answerFault s) ∨
    (s.fault = 0 ∧ ∃ c j, dispatchFault i.code s = some (c, j) ∧ t = recordFault c j (enterIssue s)) ∨
    (s.fault = 0 ∧ dispatchFault i.code s = none ∧ t = loadSequence i.code (sequenceOf s.cfg i) s) := by
  rw [exec_command hi] at h
  obtain ⟨t', h', hc⟩ := issue_cases i.code (sequenceOf s.cfg i) s
  rw [h'] at h; cases h; simpa [hh] using hc

/-- Which μop may change which register (R18 to R33). -/
theorem uop_frame {i : Instr} (hi : i.isUop = true) {s t : State} (h : exec i s = .next t) :
    (t.cfg = s.cfg ∧ t.counter = s.counter ∧ t.seqArg = s.seqArg ∧ t.seqCtx = s.seqCtx ∧ t.seqOpc = s.seqOpc ∧
      t.schedule = s.schedule ∧ t.draws = s.draws ∧ t.lastRead = s.lastRead) ∧
    (t.compare ≠ s.compare → i = .uArmArg ∨ i = .uArmPer) ∧
    (t.near ≠ s.near → i = .uArmArg ∨ i = .uArmPer ∨ i = .uInit) ∧
    (t.ie ≠ s.ie → i = .uIe1 ∨ i = .uIe0 ∨ i = .uInit) ∧
    (t.astate ≠ s.astate → i = .uArmed ∨ i = .uDisarmed ∨ i = .uInit) ∧
    (t.run ≠ s.run ∨ t.initDone ≠ s.initDone → i = .uInit) ∧
    (t.capture ≠ s.capture → i = .uCapture) ∧
    (t.ctx ≠ s.ctx → i = .uNotify ∨ i = .uCbret) ∧
    (t.pending ≠ s.pending →
      (t.pending = true ∧ s.cfg.pWriteEqMatch = true ∧ t.compare = s.counter ∧ (i = .uArmArg ∨ i = .uArmPer)) ∨
      (t.pending = false ∧ (i = .uInit ∨ i = .uClr))) ∧
    (∃ l, t.hist = s.hist ++ l) := by
  rcases exec_uop_cases hi h with ⟨_, rfl⟩ | ⟨_, r, hp, rfl⟩ | ⟨_, c, j, hp, rfl⟩
  · simp
  · cases i <;> simp [Instr.isUop, Instr.isCommand] at hi <;> simp only [performs] at hp
    case uInit =>
      split at hp
      · cases hp
      · cases hp; simp [setUp]
    case uInfo =>
      split at hp
      · cases hp; simp
      · cases hp
    all_goals cases hp; simp [armCompare, enterCallback, returnFromCallback]
    all_goals
      refine ⟨by grind, ?_⟩
      split
      · exact ⟨_, rfl⟩
      · exact ⟨[], by simp⟩
  · simp

/-- A tick changes COUNTER, PENDING, NEAR and HIST, and the count of draws (R64). -/
theorem tick_frame (s : State) : ∃ c p n h d,
    tick s = { s with counter := c, pending := p, near := n, hist := h, draws := d } := by
  unfold tick; split
  · exact ⟨_, _, _, _, _, rfl⟩
  · exact ⟨_, _, _, _, _, rfl⟩

/-- An acceptance is the entry to the service, or nothing (R121). -/
theorem accept_cases (s : State) : accept s = s ∨ (acceptEnabled s = true ∧ accept s = enterService s) := by
  unfold accept; split
  · exact .inr ⟨by assumption, rfl⟩
  · exact .inl rfl

/-- A command's write changes the sequencer's registers, the fault record and the banks only (R103). -/
theorem command_frame {i : Instr} (hi : i.isCommand = true) {s t : State} (hh : held s = false)
    (h : exec i s = .next t) : ∃ f fi q a c o r n cb, t = { s with
      fault := f, faultInfo := fi, seq := q, seqArg := a, seqCtx := c, seqOpc := o, result := r, normal := n,
      callback := cb } := by
  rcases exec_command_cases hi hh h with ⟨_, rfl⟩ | ⟨_, c, j, _, rfl⟩ | ⟨_, _, rfl⟩ <;>
    exact ⟨_, _, _, _, _, _, _, _, _, rfl⟩

theorem rejectCommand_frame (r : Reject) (s : State) : ∃ f fi q c n cb, rejectCommand r s = { s with
    fault := f, faultInfo := fi, seq := q, seqCtx := c, normal := n, callback := cb } := by
  unfold rejectCommand; split
  · exact ⟨_, _, _, _, _, _, rfl⟩
  · obtain ⟨_, _, _, _, _, h⟩ := raiseFault_frame (rejectFault r).1 (rejectFault r).2 (enterIssue s)
    rw [h]; exact ⟨_, _, _, _, _, _, rfl⟩

theorem badAccess_frame (j : BitVec 24) (s : State) : ∃ f fi q c n cb, badAccess j s = { s with
    fault := f, faultInfo := fi, seq := q, seqCtx := c, normal := n, callback := cb } := by
  unfold badAccess; split
  · obtain ⟨_, _, _, _, _, h⟩ := raiseFault_frame 0x16 j (enterIssue s)
    rw [h]; exact ⟨_, _, _, _, _, _, rfl⟩
  · exact ⟨_, _, _, _, _, _, rfl⟩

/-- What a step that answers a next state can be, on the state with another schedule and count of draws. -/
theorem step_inversion {s t : State} (h : step s = .next t) : ∃ x n, let u := { s with schedule := x, draws := n }
    ((takeMove s).1 = .tick ∧ t = tick u) ∨
    ((takeMove s).1 ≠ .tick ∧
     (((takeMove s).1 = .accept ∧ t = accept u) ∨ t = u ∨
      (∃ i q, i.isUop = true ∧ s.seq = i.code :: q ∧ exec i { u with seq := q } = .next t) ∨
      (held s = false ∧ ∃ a w i, (takeMove s).1 = .host a ∧ portAction s.cfg a = .command w ∧ decodeCmd w = .ok i ∧
        i.isCommand = true ∧ exec i u = .next t) ∨
      (held s = false ∧ ∃ w r, decodeCmd w = .error r ∧ t = rejectCommand r u) ∨
      (held s = false ∧ ((∃ v, t = writeArg v u) ∨ (∃ r, t = readPort r u) ∨ ∃ j, t = badAccess j u)))) := by
  have hu := takeMove_eq s
  obtain ⟨m, u, hm, hc⟩ := step_next h
  rw [hm] at hu ⊢
  simp only at hu ⊢
  have hheld : held u = held s := by rw [hu]; rfl
  have hcfg : u.cfg = s.cfg := by rw [hu]
  rcases hc with ⟨rfl, rfl⟩ | ⟨rfl, rfl⟩ | ⟨rfl, h⟩ | ⟨a, rfl, _, h⟩ | ⟨a, rfl, hh, h⟩
  · exact ⟨_, _, .inl ⟨rfl, congrArg tick hu⟩⟩
  · exact ⟨_, _, .inr ⟨by simp, .inl ⟨rfl, congrArg accept hu⟩⟩⟩
  · rcases sequencerStep_next h with ⟨_, rfl⟩ | ⟨i, q, hi, hq, he⟩
    · exact ⟨_, _, .inr ⟨by simp, .inr (.inl hu)⟩⟩
    · rw [hu] at hq he
      exact ⟨_, _, .inr ⟨by simp, .inr (.inr (.inl ⟨i, q, hi, hq, he⟩))⟩⟩
  · rcases sequencerStep_next h with ⟨_, rfl⟩ | ⟨i, q, hi, hq, he⟩
    · exact ⟨_, _, .inr ⟨by simp, .inr (.inl (by rw [hu]))⟩⟩
    · rw [hu] at hq he
      exact ⟨_, _, .inr ⟨by simp, .inr (.inr (.inl ⟨i, q, hi, hq, he⟩))⟩⟩
  · rw [hheld] at hh
    refine ⟨u.schedule, u.draws, .inr ⟨by simp, ?_⟩⟩
    rw [← hu]
    rcases hostAccess_next h with ⟨w, i, h1, h2, h3, h4⟩ | ⟨w, r, _, h2, h3⟩ | ⟨v, _, h2⟩ | ⟨r, _, h2⟩ | ⟨j, _, h2⟩
    · exact .inr (.inr (.inr (.inl ⟨hh, a, w, i, rfl, hcfg ▸ h1, h2, h3, h4⟩)))
    · exact .inr (.inr (.inr (.inr (.inl ⟨hh, w, r, h2, h3⟩))))
    · exact .inr (.inr (.inr (.inr (.inr ⟨hh, .inl ⟨v, h2⟩⟩))))
    · exact .inr (.inr (.inr (.inr (.inr ⟨hh, .inr (.inl ⟨r, h2⟩)⟩))))
    · exact .inr (.inr (.inr (.inr (.inr ⟨hh, .inr (.inr ⟨j, h2⟩)⟩))))

/-- Three kinds of step: a tick, a μop, and the rest, which touch no counter, alarm or facade register (R15). -/
theorem step_frames {s t : State} (h : step s = .next t) :
    ((takeMove s).1 = .tick ∧ ∃ x n, t = tick { s with schedule := x, draws := n }) ∨
    (∃ i q x n, i.isUop = true ∧ s.seq = i.code :: q ∧ exec i { s with seq := q, schedule := x, draws := n } = .next t) ∨
    (∃ cx f fi q a c o r n cb l x d, t = { s with
      ctx := cx, fault := f, faultInfo := fi, seq := q, seqArg := a, seqCtx := c, seqOpc := o, result := r, normal := n,
      callback := cb, lastRead := l, schedule := x, draws := d }) := by
  obtain ⟨x, n, h⟩ := step_inversion h
  rcases h with ⟨hm, rfl⟩ | ⟨_, ⟨_, rfl⟩ | rfl | ⟨i, q, hi, hq, he⟩ | ⟨hh, a, w, i, _, _, _, hi, he⟩ | ⟨_, w, r, _, rfl⟩ |
    ⟨_, ⟨v, rfl⟩ | ⟨r, rfl⟩ | ⟨j, rfl⟩⟩⟩
  · exact .inl ⟨hm, _, _, rfl⟩
  · right; right
    rcases accept_cases { s with schedule := x, draws := n } with h | ⟨_, h⟩ <;> rw [h] <;>
      exact ⟨_, _, _, _, _, _, _, _, _, _, _, _, _, rfl⟩
  · exact .inr (.inr ⟨_, _, _, _, _, _, _, _, _, _, _, _, _, rfl⟩)
  · exact .inr (.inl ⟨i, q, _, _, hi, hq, he⟩)
  · right; right
    obtain ⟨_, _, _, _, _, _, _, _, _, rfl⟩ := command_frame (s := { s with schedule := x, draws := n }) hi hh he
    exact ⟨_, _, _, _, _, _, _, _, _, _, _, _, _, rfl⟩
  · right; right
    obtain ⟨_, _, _, _, _, _, h⟩ := rejectCommand_frame r { s with schedule := x, draws := n }
    rw [h]; exact ⟨_, _, _, _, _, _, _, _, _, _, _, _, _, rfl⟩
  · exact .inr (.inr ⟨_, _, _, _, _, _, _, _, _, _, _, _, _, rfl⟩)
  · exact .inr (.inr ⟨_, _, _, _, _, _, _, _, _, _, _, _, _, rfl⟩)
  · right; right
    obtain ⟨_, _, _, _, _, _, h⟩ := badAccess_frame j { s with schedule := x, draws := n }
    rw [h]; exact ⟨_, _, _, _, _, _, _, _, _, _, _, _, _, rfl⟩

end Sys2Proof.Laws
end

