-- ==== Sys2Proof/Laws/Time.lean ====
section
/-!
SUPPORT. Modular time (spec/00_scope.md R12, R13): the ranges of the W-bit operations, and how the distance to a deadline
shrinks as the count goes on.
-/

namespace Sys2Proof.Laws

open Sys2Proof.Machine

variable {w n : Nat} {a b c : Word}

theorem addW_lt (w : Nat) (a b : Word) : (addW w a b).toNat < 2 ^ w := by
  unfold addW; rw [BitVec.toNat_ofNat]
  exact lt_of_le_of_lt (Nat.mod_le _ _) (Nat.mod_lt _ (by positivity))

theorem truncW_lt (w : Nat) (a : Word) : (truncW w a).toNat < 2 ^ w := by
  unfold truncW; rw [BitVec.toNat_ofNat]
  exact lt_of_le_of_lt (Nat.mod_le _ _) (Nat.mod_lt _ (by positivity))

theorem mdiffW_lt (w : Nat) (b a : Word) : mdiffW w b a < 2 ^ w := Nat.mod_lt _ (by positivity)

/-- The width of a well-formed instance (R6). -/
theorem width_range {c : Config} (h : c.wf = true) : 2 ≤ width c ∧ width c ≤ 32 := by
  simp [Config.wf] at h
  unfold width; split <;> omega

theorem addW_one_toNat (hw : w ≤ 32) : (addW w c 1).toNat = (c.toNat + 1) % 2 ^ w := by
  unfold addW
  rw [BitVec.toNat_ofNat, show (1 : Word).toNat = 1 from rfl]
  have : (c.toNat + 1) % 2 ^ w < 2 ^ w := Nat.mod_lt _ (by positivity)
  have h2 : 2 ^ w ≤ 2 ^ 32 := Nat.pow_le_pow_right (by norm_num) hw
  exact Nat.mod_eq_of_lt (by omega)

theorem mdiffW_self (ha : a.toNat < 2 ^ w) : mdiffW w a a = 0 := by
  unfold mdiffW
  rw [Nat.mod_eq_of_lt ha, show a.toNat + (2 ^ w - a.toNat) = 2 ^ w by omega, Nat.mod_self]

/-- `n` ticks bring the count `n` nearer to a deadline at least `n` ahead. -/
theorem mdiffW_add {d c' : Word} (hd : d.toNat < 2 ^ w) (hc : c.toNat < 2 ^ w) (h : c'.toNat = (c.toNat + n) % 2 ^ w)
    (hn : n ≤ mdiffW w d c) : mdiffW w d c' = mdiffW w d c - n := by
  unfold mdiffW at *
  rw [h, Nat.mod_mod]
  rw [Nat.mod_eq_of_lt hc] at hn ⊢
  generalize 2 ^ w = M at *
  by_cases h3 : d.toNat < c.toNat
  · rw [Nat.mod_eq_of_lt (a := d.toNat + (M - c.toNat)) (by omega)] at hn ⊢
    by_cases h4 : c.toNat + n < M
    · rw [Nat.mod_eq_of_lt h4, Nat.mod_eq_of_lt (by omega)]; omega
    · rw [show (c.toNat + n) % M = c.toNat + n - M by rw [Nat.mod_eq_sub_mod (by omega), Nat.mod_eq_of_lt (by omega)]]
      by_cases h5 : n = d.toNat + (M - c.toNat)
      · rw [show d.toNat + (M - (c.toNat + n - M)) = M by omega, Nat.mod_self]; omega
      · rw [show d.toNat + (M - (c.toNat + n - M)) = (d.toNat + (M - c.toNat) - n) + M by omega, Nat.add_mod_right,
          Nat.mod_eq_of_lt (by omega)]
  · rw [show d.toNat + (M - c.toNat) = (d.toNat - c.toNat) + M by omega, Nat.add_mod_right,
      Nat.mod_eq_of_lt (a := d.toNat - c.toNat) (by omega)] at hn ⊢
    rw [Nat.mod_eq_of_lt (by omega : c.toNat + n < M),
      show d.toNat + (M - (c.toNat + n)) = (d.toNat - c.toNat - n) + M by omega, Nat.add_mod_right,
      Nat.mod_eq_of_lt (by omega)]

/-- Two values of W bits at distance 0 are equal. -/
theorem eq_of_mdiffW_zero (ha : a.toNat < 2 ^ w) (hb : b.toNat < 2 ^ w) (h : mdiffW w a b = 0) : a = b := by
  unfold mdiffW at h
  rw [Nat.mod_eq_of_lt hb] at h
  apply BitVec.eq_of_toNat_eq
  by_contra hne
  rcases Nat.lt_or_gt_of_ne hne with h' | h'
  · rw [Nat.mod_eq_of_lt (by omega)] at h; omega
  · rw [show a.toNat + (2 ^ w - b.toNat) = (a.toNat - b.toNat) + 2 ^ w by omega, Nat.add_mod_right,
      Nat.mod_eq_of_lt (by omega)] at h
    omega

end Sys2Proof.Laws
end

