-- ==== Sys2Proof/Laws/Run.lean ====
section
/-!
SUPPORT. Runs of scheduled moves: their composition, a stretch of ticks, a command's write, an acceptance, and a μop after
ticks; what is left of a sequence of R61; and a path from a run.
-/

namespace Sys2Proof.Laws

open Sys2Proof.Machine Sys2Proof.Safety

theorem runSteps_add (a b : Nat) (s : State) : runSteps (a + b) s = match runSteps a s with
    | .next t => runSteps b t
    | .fault f => .fault f
    | .refused r => .refused r := by
  induction a generalizing s with
  | zero => simp [runSteps]
  | succ a ih => rw [Nat.succ_add, runSteps, runSteps]; cases step s <;> simp [ih]

theorem runSteps_trans {a b : Nat} {s t u : State} (h : runSteps a s = .next t) (h' : runSteps b t = .next u) :
    runSteps (a + b) s = .next u := by
  rw [runSteps_add, h]; exact h'

theorem runSteps_one {s t : State} (h : step s = .next t) : runSteps 1 s = .next t := by simp [runSteps, h]

/-- A run is a path of any moves. -/
theorem path_of_runSteps {k : Nat} {s t : State} (h : runSteps k s = .next t) : Path anyMove s t := by
  induction k generalizing t with
  | zero => cases h; exact .refl _
  | succ k ih =>
    rw [runSteps_add] at h
    cases hk : runSteps k s with
    | next u =>
      rw [hk] at h
      cases hu : step u with
      | next v => simp [runSteps, hu] at h; subst h; exact .snoc (ih hk) rfl hu
      | fault f => simp [runSteps, hu] at h
      | refused r => simp [runSteps, hu] at h
    | fault f => rw [hk] at h; cases h
    | refused r => rw [hk] at h; cases h

/-- What `n` ticks do to a running counter (R64, R65): the count moves on, a latch held is kept, nothing is notified. -/
structure TickRel (n : Nat) (s t : State) : Prop where
  /-- The registers a tick leaves alone. -/
  eq : t = { s with
    counter := t.counter, pending := t.pending, near := t.near, hist := t.hist, draws := t.draws, schedule := t.schedule }
  /-- The count. -/
  counter : t.cfg.wf = true → s.counter.toNat < 2 ^ width s.cfg → t.counter.toNat = (s.counter.toNat + n) % 2 ^ width s.cfg
  /-- The latch. -/
  pending : s.pending = true → t.pending = true
  /-- The notifications. -/
  notified : notifyCount t.hist = notifyCount s.hist

theorem tick_notified (s : State) : notifyCount (tick s).hist = notifyCount s.hist := by
  have h : ∀ (b : Prop) [Decidable b] (l : List Event) (e : Event), e ≠ .notify →
      notifyCount (if b then l ++ [e] else l) = notifyCount l := by
    intro b _ l e he; split <;> simp [notifyCount, he]
  unfold tick; split
  · simp only [tickWith]; rw [h]; rfl; split <;> simp
  · rfl

theorem tick_rel {s : State} (hr : s.run = true) : TickRel 1 s (tick s) := by
  obtain ⟨_, _, _, _, _, e⟩ := tick_frame s
  refine ⟨by rw [e], fun hw hc => ?_, fun hp => by simp [tick, hr, tickWith, countDraw, hp], tick_notified s⟩
  have hw : s.cfg.wf = true := by rw [e] at hw; exact hw
  simp only [tick, hr, if_true, tickWith, countDraw]
  exact addW_one_toNat (width_range hw).2

/-- Scheduled ticks run. -/
theorem run_ticks (n : Nat) (s : State) (rest : List Move) (h : s.schedule = ticks n ++ rest) (hr : s.run = true) :
    ∃ t, runSteps n s = .next t ∧ TickRel n s t ∧ t.schedule = rest ∧ (n = 0 → t = s) := by
  induction n generalizing s with
  | zero =>
    exact ⟨s, rfl, ⟨rfl, fun _ hc => by rw [Nat.add_zero, Nat.mod_eq_of_lt hc], id, rfl⟩, by simpa [ticks] using h,
      fun _ => rfl⟩
  | succ n ih =>
    have h : s.schedule = .tick :: (ticks n ++ rest) := by simpa [ticks, List.replicate_succ] using h
    have h1 := step_of_schedule h
    have hrel := tick_rel (s := { s with schedule := ticks n ++ rest }) hr
    have hsch : (tick { s with schedule := ticks n ++ rest }).schedule = ticks n ++ rest := by
      obtain ⟨_, _, _, _, _, e⟩ := tick_frame { s with schedule := ticks n ++ rest }; rw [e]
    simp only [act] at h1
    generalize tick { s with schedule := ticks n ++ rest } = u at *
    obtain ⟨t, ht, ⟨he, hc, hp, hn⟩, hs, _⟩ := ih u hsch (by rw [hrel.eq]; exact hr)
    have hcfg : u.cfg = s.cfg := by rw [hrel.eq]
    refine ⟨t, ?_, ⟨by rw [he, hrel.eq], fun hw hcs => ?_, fun h => hp (hrel.pending h), by rw [hn, hrel.notified]⟩, hs,
      by simp⟩
    · rw [Nat.add_comm]; exact runSteps_trans (runSteps_one h1) ht
    · have h1 := hrel.counter (by rw [he] at hw; exact hw) hcs
      rw [hcfg] at hc
      rw [hc hw (by rw [h1]; exact Nat.mod_lt _ (by positivity)), h1]
      simp [Nat.add_assoc, Nat.add_comm 1 n]

@[simp] theorem sequencerAfter_nil : sequencerAfter [] = [] := rfl
@[simp] theorem sequencerAfter_cons (l : List Move) (ls : List (List Move)) :
    sequencerAfter (l :: ls) = l ++ .sequencer :: sequencerAfter ls := by simp [sequencerAfter]
@[simp] theorem ticksAndAccepts_nil : ticksAndAccepts [] = true := rfl
@[simp] theorem ticksAndAccepts_append (l m : List Move) :
    ticksAndAccepts (l ++ m) = (ticksAndAccepts l && ticksAndAccepts m) := by simp [ticksAndAccepts]

/-- What moves of the counter and of the acceptance do while no service can start: the count, the latch and the history of
matches may go on, and nothing else. -/
structure QuietRel (s t : State) : Prop where
  /-- The registers left alone. -/
  eq : t = { s with
    counter := t.counter, pending := t.pending, near := t.near, hist := t.hist, draws := t.draws, schedule := t.schedule }
  /-- The notifications. -/
  notified : notifyCount t.hist = notifyCount s.hist

theorem tick_quiet (s : State) : QuietRel s (tick s) := by
  obtain ⟨_, _, _, _, _, e⟩ := tick_frame s
  exact ⟨by rw [e], tick_notified s⟩

theorem QuietRel.cfg {s t : State} (h : QuietRel s t) : t.cfg = s.cfg := by rw [h.eq]
theorem QuietRel.compare {s t : State} (h : QuietRel s t) : t.compare = s.compare := by rw [h.eq]
theorem QuietRel.ie {s t : State} (h : QuietRel s t) : t.ie = s.ie := by rw [h.eq]
theorem QuietRel.run {s t : State} (h : QuietRel s t) : t.run = s.run := by rw [h.eq]
theorem QuietRel.astate {s t : State} (h : QuietRel s t) : t.astate = s.astate := by rw [h.eq]
theorem QuietRel.initDone {s t : State} (h : QuietRel s t) : t.initDone = s.initDone := by rw [h.eq]
theorem QuietRel.fault {s t : State} (h : QuietRel s t) : t.fault = s.fault := by rw [h.eq]
theorem QuietRel.ctx {s t : State} (h : QuietRel s t) : t.ctx = s.ctx := by rw [h.eq]
theorem QuietRel.normal {s t : State} (h : QuietRel s t) : t.normal = s.normal := by rw [h.eq]
theorem QuietRel.callback {s t : State} (h : QuietRel s t) : t.callback = s.callback := by rw [h.eq]
theorem QuietRel.seq {s t : State} (h : QuietRel s t) : t.seq = s.seq := by rw [h.eq]
theorem QuietRel.seqCtx {s t : State} (h : QuietRel s t) : t.seqCtx = s.seqCtx := by rw [h.eq]
theorem QuietRel.result {s t : State} (h : QuietRel s t) : t.result = s.result := by rw [h.eq]

theorem QuietRel.trans {s t u : State} (h : QuietRel s t) (h' : QuietRel t u) : QuietRel s u :=
  ⟨by rw [h'.eq, h.eq], h'.notified.trans h.notified⟩

/-- With a sequence running, outside Normal, or with the enable off, ACCEPT is not enabled (R121). -/
theorem not_acceptEnabled {s : State} (h : s.seq ≠ [] ∨ s.ctx ≠ .normal ∨ s.ie = false) : acceptEnabled s = false := by
  rw [Bool.eq_false_iff]
  intro ha
  simp only [acceptEnabled, busy, irq, Bool.and_eq_true, decide_eq_true_eq, Bool.not_not, List.isEmpty_iff] at ha
  rcases h with h | h | h
  · exact h ha.1.2
  · exact h ha.1.1.2
  · rw [h] at ha; exact absurd ha.2.2 (by simp)

/-- Scheduled moves of the counter and the acceptance run, and start no service, where ACCEPT is not enabled (R64, R121). -/
theorem run_quiet (l : List Move) (s : State) (rest : List Move) (h : s.schedule = l ++ rest)
    (hl : ticksAndAccepts l = true) (hb : s.seq ≠ [] ∨ s.ctx ≠ .normal ∨ s.ie = false) :
    ∃ t, runSteps l.length s = .next t ∧ QuietRel s t ∧ t.schedule = rest ∧ (.tick ∉ l → t.pending = s.pending) := by
  induction l generalizing s with
  | nil => exact ⟨s, rfl, ⟨rfl, rfl⟩, h, fun _ => rfl⟩
  | cons m l ih =>
    obtain ⟨hm, hl⟩ : (m = .tick ∨ m = .accept) ∧ ticksAndAccepts l = true := by simpa [ticksAndAccepts] using hl
    have hstep : ∃ u, step s = .next u ∧ QuietRel s u ∧ u.schedule = l ++ rest ∧ (m ≠ .tick → u.pending = s.pending) := by
      rcases hm with rfl | rfl
      · have hq := tick_quiet { s with schedule := l ++ rest }
        refine ⟨_, by rw [step_of_schedule h]; rfl, ⟨by rw [hq.eq], hq.notified⟩, ?_, fun h => absurd rfl h⟩
        obtain ⟨_, _, _, _, _, e⟩ := tick_frame { s with schedule := l ++ rest }; rw [e]
      · have ha : acceptEnabled { s with schedule := l ++ rest } = false := not_acceptEnabled hb
        exact ⟨{ s with schedule := l ++ rest }, by rw [step_of_schedule h]; simp [act, accept, ha], ⟨rfl, rfl⟩, rfl,
          fun _ => rfl⟩
    obtain ⟨u, hu, hq, hs, hp⟩ := hstep
    obtain ⟨t, ht, hq', hs', hp'⟩ := ih u hs hl (by rw [hq.eq]; exact hb)
    refine ⟨t, by rw [List.length_cons, Nat.add_comm]; exact runSteps_trans (runSteps_one hu) ht, hq.trans hq', hs',
      fun hn => ?_⟩
    rw [List.mem_cons, not_or] at hn
    rw [hp' hn.2, hp (Ne.symm hn.1)]

/-- A scheduled command's write loads its sequence (R103). -/
theorem run_commandWrite (s : State) (rest : List Move) (i : Instr) (h : s.schedule = cmdWrite s i :: rest)
    (hr : ready s = true) (hi : i.isCommand = true) (hd : dispatchFault i.code s = none) :
    runSteps 1 s = .next (loadSequence i.code (sequenceOf s.cfg i) { s with schedule := rest }) := by
  simp only [ready, Bool.and_eq_true, Bool.not_eq_true', decide_eq_true_eq] at hr
  apply runSteps_one
  have hh : held { s with schedule := rest } = false := hr.1
  have hd' : dispatchFault i.code { s with schedule := rest } = none := hd
  rw [step_of_schedule h, cmdWrite, act_host_free hh,
    hostAccess_command (s := { s with schedule := rest }) (portAction_cmdWord s.cfg (encodeCmd i)) (decodeCmd_encodeCmd i hi),
    exec_command hi, issue_ready hh hr.2]
  simp [hd']

/-- A scheduled, enabled acceptance enters the service (R121). -/
theorem run_accept (s : State) (rest : List Move) (h : s.schedule = .accept :: rest) (ha : acceptEnabled s = true) :
    runSteps 1 s = .next (enterService { s with schedule := rest }) := by
  have : acceptEnabled { s with schedule := rest } = true := ha
  apply runSteps_one
  rw [step_of_schedule h]; simp [act, accept, this]

/-- A scheduled sequencer move runs the head of SEQ (R105). -/
theorem run_head (s : State) (rest : List Move) (i : Instr) (q : List Byte) (h : s.schedule = .sequencer :: rest)
    (hq : s.seq = i.code :: q) (hi : i.isUop = true) : runSteps 1 s = exec i { s with schedule := rest, seq := q } := by
  have : step s = exec i { s with schedule := rest, seq := q } := by
    rw [step_of_schedule h]; simp only [act, sequencerStep, hq, decodeUop_code i hi]
  rw [← this]; simp [runSteps]; cases step s <;> rfl

/-- Ticks, then a sequencer move on a μop of the live backend that does not fault (R105). -/
theorem run_ticksThenUop (n : Nat) (s : State) (rest : List Move) (i : Instr) (p : State → State) (q : List Byte)
    (h : s.schedule = ticks n ++ (.sequencer :: rest)) (hr : s.run = true) (hq : s.seq = i.code :: q)
    (hi : i.isUop = true) (hav : uopAvailable s.cfg i = true) (hp : ∀ s, performs i s = .ok (p s)) :
    ∃ u, runSteps (n + 1) s = .next (finishUop (p { u with schedule := rest, seq := q })) ∧ TickRel n s u ∧
      (n = 0 → u = s) := by
  obtain ⟨u, hu, hrel, hs, h0⟩ := run_ticks n s _ h hr
  refine ⟨u, runSteps_trans hu ?_, hrel, h0⟩
  have hc : u.cfg = s.cfg := by rw [hrel.eq]
  rw [run_head u rest i q hs (by rw [hrel.eq]; exact hq) hi, exec_uop hi]
  simp [runUop, hp, hc, hav]

/-- Moves of the counter and the acceptance, then a sequencer move on a μop of the live backend that does not fault: the
sequence runs, so no service starts in between (R105, R121). -/
theorem run_quietThenUop (l : List Move) (s : State) (rest : List Move) (i : Instr) (p : State → State) (q : List Byte)
    (h : s.schedule = l ++ (.sequencer :: rest)) (hl : ticksAndAccepts l = true) (hq : s.seq = i.code :: q)
    (hi : i.isUop = true) (hav : uopAvailable s.cfg i = true) (hp : ∀ s, performs i s = .ok (p s)) :
    ∃ u, runSteps (l.length + 1) s = .next (finishUop (p { u with schedule := rest, seq := q })) ∧ QuietRel s u ∧
      (.tick ∉ l → u.pending = s.pending) := by
  obtain ⟨u, hu, hrel, hs, h0⟩ := run_quiet l s _ h hl (.inl (by simp [hq]))
  refine ⟨u, runSteps_trans hu ?_, hrel, h0⟩
  have hc : u.cfg = s.cfg := by rw [hrel.eq]
  rw [run_head u rest i q hs (by rw [hrel.eq]; exact hq) hi, exec_uop hi]
  simp [runUop, hp, hc, hav]

/-- The head of SEQ, and what follows it, for every sequence of R61; the head belongs to the live backend (R60, R80). -/
theorem sequence_cases {s : State} (h : Inv s) {i : Instr} {q : List Byte} (hq : s.seq = i.code :: q) :
    uopAvailable s.cfg i = true ∧
    ((s.ctx ≠ .service ∧ s.seqCtx = s.ctx ∧
      (q = [] ∧ i ∉ [.uCapture, .uArmPer, .uClr, .uIe1, .uIe0, .uNotify] ∨
       (i = .uCapture ∧ q = [0x83]) ∨ (i = .uArmArg ∧ q = [0x86, 0x87, 0x8C]) ∨ (i = .uClr ∧ q = [0x87, 0x8C]) ∨
       (i = .uIe1 ∧ q = [0x8C]) ∨ (i = .uIe0 ∧ q = [0x86, 0x8D]) ∨ (i = .uClr ∧ q = [0x8D]))) ∨
     (s.ctx = .service ∧ s.seqCtx = .service ∧ s.cfg.modeSel = 0 ∧
      ((i = .uClr ∧ q = [0x85, 0x8E]) ∨ (i = .uArmPer ∧ q = [0x8E]) ∨ (i = .uNotify ∧ q = []))) ∨
     (s.ctx = .service ∧ s.seqCtx = .service ∧ s.cfg.modeSel ≠ 0 ∧
      ((i = .uClr ∧ q = [0x88, 0x86, 0x8D, 0x8E]) ∨ (i = .uIe0 ∧ q = [0x86, 0x8D, 0x8E]) ∨
       (i = .uClr ∧ q = [0x8D, 0x8E]) ∨ (i = .uDisarmed ∧ q = [0x8E]) ∨ (i = .uNotify ∧ q = [])))) := by
  rcases h.sequence with hs | ⟨h1, h2, Q, hQ, hs⟩ | ⟨h1, h2, hs⟩
  · rw [hs] at hq; cases hq
  · have hb : (i = .uInit ∨ i = .uStatus ∨ i = .uInfo) ∨ s.cfg.backendSel = 0 ∨ s.cfg.backendSel = 1 := by
      cases hd : s.initDone with
      | true =>
        have := h.initChecked hd
        unfold validateConfig at this
        split at this
        · cases this
        · next hx => exact .inr (by by_contra hy; exact hx (not_or.1 hy))
      | false =>
        have := (h.beforeInit hd).2.2.2.2.2
        rw [hq] at this
        simp only [codes, List.map, List.mem_cons, List.cons.injEq, List.not_mem_nil, or_false, reduceCtorEq,
          false_or] at this
        exact .inl (this.imp (fun h => code_injective h.1) (Or.imp (fun h => code_injective h.1) fun h => code_injective h.1))
    rw [hq] at hs
    simp only [commandSequences, List.mem_cons, List.not_mem_nil, or_false] at hQ
    rcases hQ with rfl | rfl | rfl | rfl | rfl | rfl | rfl | rfl | rfl | rfl
    all_goals try split at hs
    all_goals
      simp only [codes, List.map, List.suffix_cons_iff, List.suffix_nil, List.cons.injEq, reduceCtorEq, or_false] at hs
    all_goals try rcases hs with ⟨hc, rfl⟩ | ⟨hc, rfl⟩ | ⟨hc, rfl⟩ | ⟨hc, rfl⟩
    all_goals try rcases hs with ⟨hc, rfl⟩ | ⟨hc, rfl⟩ | ⟨hc, rfl⟩
    all_goals try rcases hs with ⟨hc, rfl⟩ | ⟨hc, rfl⟩
    all_goals try rcases hs with ⟨hc, rfl⟩
    all_goals
      have hci := code_injective hc
      subst hci
      refine ⟨?_, .inl ⟨h1, h2, by simp [Instr.code]⟩⟩
      simp [uopAvailable]; try simp_all
  · rw [hq] at hs
    unfold serviceSequence at hs
    split at hs
    all_goals
      simp only [codes, List.map, List.suffix_cons_iff, List.suffix_nil, List.cons.injEq, reduceCtorEq, or_false] at hs
    · rcases hs with ⟨hc, rfl⟩ | ⟨hc, rfl⟩ | ⟨hc, rfl⟩
      all_goals
        have hci := code_injective hc
        subst hci
        exact ⟨rfl, .inr (.inl ⟨h1, h2, by assumption, by simp [Instr.code]⟩)⟩
    · rcases hs with ⟨hc, rfl⟩ | ⟨hc, rfl⟩ | ⟨hc, rfl⟩ | ⟨hc, rfl⟩ | ⟨hc, rfl⟩
      all_goals
        have hci := code_injective hc
        subst hci
        exact ⟨rfl, .inr (.inr ⟨h1, h2, by assumption, by simp [Instr.code]⟩)⟩

end Sys2Proof.Laws
end

