-- ==== Sys2Proof/Laws/End.lean ====
section
/-!
SUPPORT. The end of a run (spec/70_reset_and_hazards.md R151): the host's program only gets shorter, a run ENDS in at most
one state, and a run of moves that reaches the conditions of END has ENDED at or before it.
-/

namespace Sys2Proof.Laws

open Sys2Proof.Machine Sys2Proof.Safety

/-- What is scheduled before the host's last access is done must hold no access. -/
@[simp] theorem hostDone_withMoves (ms : List Move) (s : State) :
    hostDone (withMoves ms s) = (ms.all (fun m => !hostMove m) && hostDone s) := by
  simp [hostDone, withMoves]

theorem atEnd_iff {s : State} : atEnd s = true ↔ hostDone s = true ∧ s.seq = [] ∧ s.ctx = .normal := by
  simp [atEnd, quiescent]

/-- What the host has left to do does not grow: a move is taken off the schedule, or a held access put back on it. -/
theorem act_schedule {m : Move} {s t : State} (h : act m s = .next t) :
    t.schedule = s.schedule ∨ ∃ a, m = .host a ∧ t.schedule = .host a :: s.schedule := by
  have hx : ∀ {i : Instr} {u v : State}, i.isUop = true → exec i u = .next v → v.schedule = u.schedule :=
    fun hi he => (uop_frame hi he).1.2.2.2.2.2.1
  cases m with
  | tick =>
    cases h; left
    obtain ⟨_, _, _, _, _, e⟩ := tick_frame s; rw [e]
  | accept =>
    cases h; left
    rcases accept_cases s with h | ⟨_, h⟩ <;> rw [h]
    rfl
  | sequencer =>
    left
    rcases sequencerStep_next (show sequencerStep s = .next t from h) with ⟨_, rfl⟩ | ⟨i, q, hi, _, he⟩
    · rfl
    · exact (hx hi he :)
  | host a =>
    unfold act at h
    simp only at h
    split at h
    · right
      rcases sequencerStep_next h with ⟨_, rfl⟩ | ⟨i, q, hi, _, he⟩
      · exact ⟨a, rfl, rfl⟩
      · exact ⟨a, rfl, (hx hi he :)⟩
    · next hh =>
      left
      rcases hostAccess_next h with ⟨w, i, _, _, hi, he⟩ | ⟨w, r, _, _, rfl⟩ | ⟨v, _, rfl⟩ | ⟨r, _, rfl⟩ | ⟨j, _, rfl⟩
      · obtain ⟨_, _, _, _, _, _, _, _, _, rfl⟩ := command_frame hi (by simpa using hh) he; rfl
      · obtain ⟨_, _, _, _, _, _, e⟩ := rejectCommand_frame r s; rw [e]
      · rfl
      · rfl
      · obtain ⟨_, _, _, _, _, _, e⟩ := badAccess_frame j s; rw [e]

/-- Once the host has made its last access it makes no other (R151). -/
theorem step_keeps_hostDone {s t : State} (h : step s = .next t) (hd : hostDone s = true) : hostDone t = true := by
  unfold step at h
  unfold hostDone at hd
  cases hs : s.schedule with
  | nil =>
    have ha : ∀ a : Access, (Config.freeAgent s.draws).move ≠ .host a := by
      intro a; cases Config.freeAgent s.draws <;> simp [Agent.move]
    simp only [takeMove, hs] at h
    rcases act_schedule h with he | ⟨a, hm, _⟩
    · simp [hostDone, he]
    · exact absurd hm (ha a)
  | cons m rest =>
    simp only [takeMove, hs] at h
    rw [hs, List.all_cons, Bool.and_eq_true] at hd
    rcases act_schedule h with he | ⟨a, rfl, _⟩
    · simp only [hostDone, he]; exact hd.2
    · exact absurd hd.1 (by simp [hostMove])

/-- A path is no step, or a first step and a path. -/
theorem path_head {ok : State → Move → Bool} {s u : State} (h : Path ok s u) :
    s = u ∨ ∃ t, ok s (takeMove s).1 = true ∧ step s = .next t ∧ Path ok t u := by
  induction h with
  | refl => exact .inl rfl
  | snoc _ hok hs ih =>
    rcases ih with rfl | ⟨v, h1, h2, h3⟩
    · exact .inr ⟨_, hok, hs, .refl _⟩
    · exact .inr ⟨v, h1, h2, .snoc h3 hok hs⟩

theorem path_cons {ok : State → Move → Bool} {s t u : State} (hok : ok s (takeMove s).1 = true) (hs : step s = .next t)
    (h : Path ok t u) : Path ok s u := by
  induction h with
  | refl => exact .snoc (.refl _) hok hs
  | snoc _ h1 h2 ih => exact .snoc ih h1 h2

/-- Of two paths from one state, one goes on from the other's end. -/
theorem path_linear {ok : State → Move → Bool} {s t u : State} (ht : Path ok s t) (hu : Path ok s u) :
    Path ok t u ∨ Path ok u t := by
  induction ht with
  | refl => exact .inl hu
  | snoc _ hok hs ih =>
    rcases ih with h | h
    · rcases path_head h with rfl | ⟨v, _, hv, hp⟩
      · exact .inr (.snoc (.refl _) hok hs)
      · rw [hs] at hv; cases hv; exact .inl hp
    · exact .inr (.snoc h hok hs)

/-- A run ENDS in at most one state (R151: the first). -/
theorem ends_unique {s t u : State} (ht : Ends s t) (hu : Ends s u) : t = u := by
  rcases path_linear ht.1 hu.1 with h | h
  · rcases path_head h with rfl | ⟨_, hok, _⟩
    · rfl
    · rw [ht.2] at hok; exact absurd hok (by simp)
  · rcases path_head h with rfl | ⟨_, hok, _⟩
    · rfl
    · rw [hu.2] at hok; exact absurd hok (by simp)

/-- A run that reaches the conditions of END has ENDED there, or before. -/
theorem ends_of_runSteps {k : Nat} {s t : State} (h : runSteps k s = .next t) (ht : atEnd t = true) : ∃ u, Ends s u := by
  induction k generalizing s with
  | zero => cases h; exact ⟨t, .refl _, ht⟩
  | succ k ih =>
    cases he : atEnd s with
    | true => exact ⟨s, .refl _, he⟩
    | false =>
      rw [runSteps] at h
      cases hs : step s with
      | next v =>
        rw [hs] at h
        obtain ⟨u, hu, hue⟩ := ih h
        exact ⟨u, path_cons (by simp [he]) hs hu, hue⟩
      | fault f => rw [hs] at h; cases h
      | refused r => rw [hs] at h; cases h

end Sys2Proof.Laws
end

