-- ==== Sys2Proof/Laws/PerInstr.lean ====
section
/-!
SUPPORT. The per-instruction family EncodeDecode: every instruction decodes from its own bytes, one lemma per constructor.
-/

namespace Sys2Proof.Laws.EncodeDecode

/-- The bytes of `i` decode to `i`, and their number is that of its format (R51, R60). -/
def Statement (i : Instr) : Prop :=
  decodeBytes (encode i) = .ok i ∧ (encode i).length = if i.isCommand = true then 4 else 1

theorem init : Statement .init := ⟨rfl, rfl⟩
theorem getCounter : Statement .getCounter := ⟨rfl, rfl⟩
theorem start : Statement .start := ⟨rfl, rfl⟩
theorem stop : Statement .stop := ⟨rfl, rfl⟩
theorem set : Statement .set := ⟨rfl, rfl⟩
theorem get : Statement .get := ⟨rfl, rfl⟩
theorem isActive : Statement .isActive := ⟨rfl, rfl⟩
theorem cbret : Statement .cbret := ⟨rfl, rfl⟩
theorem status : Statement .status := ⟨rfl, rfl⟩
theorem info : Statement .info := ⟨rfl, rfl⟩
theorem uInit : Statement .uInit := ⟨rfl, rfl⟩
theorem uReadCnt : Statement .uReadCnt := ⟨rfl, rfl⟩
theorem uCapture : Statement .uCapture := ⟨rfl, rfl⟩
theorem uReadCap : Statement .uReadCap := ⟨rfl, rfl⟩
theorem uArmArg : Statement .uArmArg := ⟨rfl, rfl⟩
theorem uArmPer : Statement .uArmPer := ⟨rfl, rfl⟩
theorem uClr : Statement .uClr := ⟨rfl, rfl⟩
theorem uIe1 : Statement .uIe1 := ⟨rfl, rfl⟩
theorem uIe0 : Statement .uIe0 := ⟨rfl, rfl⟩
theorem uQie : Statement .uQie := ⟨rfl, rfl⟩
theorem uQshadow : Statement .uQshadow := ⟨rfl, rfl⟩
theorem uRdcmp : Statement .uRdcmp := ⟨rfl, rfl⟩
theorem uArmed : Statement .uArmed := ⟨rfl, rfl⟩
theorem uDisarmed : Statement .uDisarmed := ⟨rfl, rfl⟩
theorem uNotify : Statement .uNotify := ⟨rfl, rfl⟩
theorem uCbret : Statement .uCbret := ⟨rfl, rfl⟩
theorem uStatus : Statement .uStatus := ⟨rfl, rfl⟩
theorem uInfo : Statement .uInfo := ⟨rfl, rfl⟩

end Sys2Proof.Laws.EncodeDecode
end

