-- ==== Sys2Proof/Tests/Slice0.lean ====
section
/-!
SUPPORT. Tests: ill-formed terms refused, every row's word decoded as spec/30_encoding.md writes it, the vectors of
spec/95_test_vectors.md one step or one command at a time, and for every obligation with hypotheses a state and operands
that meet them. Each test's comment names the vector it takes its numbers from.
-/

namespace Sys2Proof.Tests

open Sys2Proof.Machine Sys2Proof.Safety Sys2Proof.Laws

/-- A field of the next state, none where the machine stops. -/
def view {α : Type} (f : State → α) : Out → Option α
  | .next t => some (f t)
  | _ => none

/-- The vectors' defaults: the reference instance (RTC, TickLess, W = 24) after INIT. -/
def idle : State := { State.reset with run := true, initDone := true }

/-- The same on the CC backend. -/
def idleCc : State := { idle with cfg := { idle.cfg with backendSel := 1, wCc := 24 } }

/-- In PeriodicTick mode with this period. -/
def periodic (p : Word) : State := { idle with cfg := { idle.cfg with modeSel := 0, period := p } }

/-- Armed, with the request raised. -/
def raised (s : State) : State := { s with ie := true, astate := .armed, pending := true, hist := [.matched 0] }

/-- In the callback. -/
def inCallback : State := { idle with ctx := .callback }

/-- After a fault: CFG_FLOOR with info 2. -/
def faultedIdle : State := { State.reset with fault := 0x03, faultInfo := 2 }

/-- These moves are scheduled, and nothing after them. -/
def moves (ms : List Move) (s : State) : State := { s with schedule := ms }

/-- A 32-bit write at a window offset (BASE = 0). -/
def writeAt (offset : Nat) (v : Word) : Move := .host (.write offset (wordBytes v))

/-- A command's write, and as many sequencer moves as it needs. -/
def command (i : Instr) (k : Nat) (s : State) : Out :=
  runSteps (k + 1) (moves (cmdWrite s i :: List.replicate k .sequencer) s)

/-! ## Well-formedness -/

theorem test_wfSequence_refuses_command : wfSequence [.uClr, .start] = false := by decide
theorem test_wfSequence_refuses_six : wfSequence [.uClr, .uClr, .uClr, .uClr, .uClr, .uClr] = false := by decide
theorem test_wfSequence_takes_service : wfSequence [.uClr, .uIe0, .uClr, .uDisarmed, .uNotify] = true := by decide
theorem test_wfAccess_refuses_read3 : (Access.read 0 3).wf = false := by decide
theorem test_wfAccess_refuses_read0 : (Access.read 0 0).wf = false := by decide
theorem test_wfAccess_refuses_write3 : (Access.write 0 [1, 2, 3]).wf = false := by decide
theorem test_wfAccess_takes_8 : (Access.read 0 8).wf = true := by decide
theorem test_wfConfig_takes_reference : referenceConfig.wf = true := by decide
theorem test_wfConfig_refuses_wRtc1 : { referenceConfig with wRtc := 1, floorRtc := 0 }.wf = false := by decide
theorem test_wfConfig_refuses_wRtc_above_wCc : { referenceConfig with wRtc := 24, wCc := 16 }.wf = false := by decide
theorem test_wfConfig_refuses_wCc33 : { referenceConfig with wCc := 33 }.wf = false := by decide
theorem test_wfConfig_refuses_floorRtc : { referenceConfig with floorRtc := 0x1000000 }.wf = false := by decide
theorem test_wfConfig_refuses_floorCc : { referenceConfig with wCc := 24, floorCc := 0x1000000 }.wf = false := by decide
theorem test_wfConfig_refuses_missWindow : { referenceConfig with missWindow := 0x1000000 }.wf = false := by decide

/-! ## Decoding: each row's bits from the tables of R52 and R60 -/

theorem test_decode_commands :
    decodeTableWord 32 0x00000001 = some .init ∧ decodeTableWord 32 0x00000002 = some .getCounter ∧
    decodeTableWord 32 0x00000003 = some .start ∧ decodeTableWord 32 0x00000004 = some .stop ∧
    decodeTableWord 32 0x00000005 = some .set ∧ decodeTableWord 32 0x00000006 = some .get ∧
    decodeTableWord 32 0x00000007 = some .isActive ∧ decodeTableWord 32 0x00000008 = some .cbret ∧
    decodeTableWord 32 0x00000009 = some .status ∧ decodeTableWord 32 0x0000000A = some .info := by decide

theorem test_decode_uops :
    decodeTableWord 8 0x80 = some .uInit ∧ decodeTableWord 8 0x81 = some .uReadCnt ∧
    decodeTableWord 8 0x82 = some .uCapture ∧ decodeTableWord 8 0x83 = some .uReadCap ∧
    decodeTableWord 8 0x84 = some .uArmArg ∧ decodeTableWord 8 0x85 = some .uArmPer ∧
    decodeTableWord 8 0x86 = some .uClr ∧ decodeTableWord 8 0x87 = some .uIe1 ∧ decodeTableWord 8 0x88 = some .uIe0 ∧
    decodeTableWord 8 0x89 = some .uQie ∧ decodeTableWord 8 0x8A = some .uQshadow ∧
    decodeTableWord 8 0x8B = some .uRdcmp ∧ decodeTableWord 8 0x8C = some .uArmed ∧
    decodeTableWord 8 0x8D = some .uDisarmed ∧ decodeTableWord 8 0x8E = some .uNotify ∧
    decodeTableWord 8 0x8F = some .uCbret ∧ decodeTableWord 8 0x90 = some .uStatus ∧
    decodeTableWord 8 0x91 = some .uInfo := by decide

/-- The boundary words of R53 and R54 (95, 3.2), and the codes beside R60's. -/
theorem test_decode_rejects :
    decodeCmd 0x00000000 = .error (.illegalOpcode 0x00) ∧ decodeCmd 0x0000000B = .error (.illegalOpcode 0x0B) ∧
    decodeCmd 0x00000080 = .error (.illegalOpcode 0x80) ∧ decodeCmd 0x000000FF = .error (.illegalOpcode 0xFF) ∧
    decodeCmd 0x00000100 = .error (.reservedBits 1) ∧ decodeCmd 0x80000003 = .error (.reservedBits 0x800000) ∧
    decodeCmd 0xFFFFFFFF = .error (.reservedBits 0xFFFFFF) ∧ decodeBytes [0x7F] = .error (.notAUop 0x7F) ∧
    decodeBytes [0x92] = .error (.notAUop 0x92) ∧ decodeBytes [0x01, 0x00] = .error .wrongLength ∧
    decodeTableWord 8 0x186 = none := by decide

/-- The bytes of START on the bus (95, 4.1 row 5), and of a μop. -/
theorem test_encode : encode .start = [0x03, 0x00, 0x00, 0x00] ∧ encode .uNotify = [0x8E] := by decide

/-! ## Arithmetic (95, 3.1) -/

theorem test_addW : addW 24 0xFFFFFF 1 = 0 ∧ addW 24 0xFFFFF0 0x20 = 0x10 ∧ addW 32 0xFFFFFFFF 1 = 0 ∧
    truncW 24 0xFF000123 = 0x123 := by decide

theorem test_modular_order : mdiffW 24 0x800000 0 = 0x800000 ∧ sdiffW 24 0x800000 0 = -8388608 ∧
    afterW 24 0x800000 0 = false ∧ afterW 24 0 0x800000 = false ∧ sdiffW 24 0x7FFFFF 0 = 8388607 ∧
    afterW 24 0x7FFFFF 0 = true ∧ mdiffW 24 5 5 = 0 ∧ afterW 24 5 5 = false ∧ mdiffW 2 0 3 = 1 ∧
    afterW 2 0 3 = true ∧ sdiffW 2 2 0 = -2 ∧ sdiffW 24 3 0xFFFFFB = 8 := by decide

/-! ## The counter (95, 3.4) -/

theorem test_tick_T5_wraps_and_latches : view (fun t => (t.counter, t.pending, irq t, t.hist))
    (step (moves [.tick] { idle with counter := 0xFFFFFF, compare := 0 })) = some (0, true, false, [.matched 0]) := by decide

theorem test_tick_T6_equal_is_no_match : view (fun t => (t.counter, t.pending))
    (step (moves [.tick] { idle with counter := 7, compare := 7 })) = some (8, false) := by decide

theorem test_tick_T8_T9_near : (tickWith true { idle with counter := 6, compare := 7, near := true }).hist = [.matched 7] ∧
    (tickWith false { idle with counter := 6, compare := 7, near := true }).hist = [.missed 7] ∧
    (tickWith false { idle with counter := 6, compare := 7, near := true }).near = false := by decide

/-! ## The port (95, 3.3) -/

theorem test_port_arg_bytes : view (fun t => t.normal.arg)
    (step (moves [.host (.write 4 [0x78, 0x56, 0x34, 0x12])] idle)) = some 0x12345678 := by decide

theorem test_port_bad_byte_write : view (fun t => (t.normal.rstat, t.fault))
    (step (moves [.host (.write 4 [1])] idle)) = some (0x00110416, 0x16) := by decide

theorem test_port_bad_reads : view (fun t => t.normal.rstat) (step (moves [.host (.read 0 4)] idle)) = some 0x00400016 ∧
    view (fun t => t.normal.rstat) (step (moves [.host (.read 2 4)] idle)) = some 0x00400216 ∧
    view (fun t => t.normal.rstat) (step (moves [.host (.read 0 8)] idle)) = some 0x00800016 ∧
    view (fun t => t.normal.rstat) (step (moves [writeAt 8 1] idle)) = some 0x00410816 ∧
    view (fun t => t.normal.rstat) (step (moves [.host (.write 12 [1, 2])] idle)) = some 0x00210C16 := by decide

theorem test_port_outside : step (moves [.host (.read 16 4)] idle) = .fault (.outsideWindow 16) := rfl

theorem test_port_not_a_bus_access : step (moves [.host (.read 4 3)] idle) = .fault (.notABusAccess 3) := rfl

/-! ## Dispatch (95, 3.2) -/

theorem test_dispatch_rejected_words : view (fun t => t.normal.rstat) (step (moves [writeAt 0 0x80] idle)) = some 0x8012 ∧
    view (fun t => t.normal.rstat) (step (moves [writeAt 0 0x80000003] idle)) = some 0x80000013 ∧
    view (fun t => t.normal.rstat) (step (moves [writeAt 0 0x100] State.reset)) = some 0x113 := by decide

theorem test_dispatch_faults : view (fun t => t.normal.rstat) (exec .init idle) = some 0x11 ∧
    view (fun t => t.normal.rstat) (exec .start State.reset) = some 0x310 ∧
    view (fun t => t.normal.rstat) (exec .cbret State.reset) = some 0x810 ∧
    view (fun t => t.normal.rstat) (exec .cbret idle) = some 0x14 ∧
    view (fun t => t.normal.rstat) (exec .stop faultedIdle) = some 0x203 := by decide

/-! ## The commands -/

theorem test_init_from_reset : view (fun t => (t.run, t.initDone, t.normal.rstat)) (command .init 1 State.reset) =
    some (true, true, 0) := by decide

/-- 95, 1.2. -/
theorem test_init_rejects_floor :
    view (fun t => (t.initDone, t.normal.rstat))
      (command .init 1 { State.reset with cfg := { referenceConfig with lookahead := 2 } }) = some (false, 0x203) := by decide

/-- 95, 3.10, RTC. -/
theorem test_getCounter_rtc : view (fun t => t.normal.rval) (command .getCounter 1 { idle with counter := 0xFFFFFF }) =
    some 0xFFFFFF := by decide

/-- 95, 3.10, CC with a tick between the capture and the read. -/
theorem test_getCounter_cc : view (fun t => (t.normal.rval, t.counter, t.capture))
    (runSteps 4 (moves [cmdWrite idleCc .getCounter, .sequencer, .tick, .sequencer] { idleCc with counter := 0x40 })) =
    some (0x40, 0x41, 0x40) := by decide

/-- Vector S1 (95, 3.7). -/
theorem test_start_S1 : view (fun t => (t.compare, t.pending, t.ie, t.astate, t.normal.rstat))
    (command .start 4 { idle with
      counter := 50, compare := 7, pending := true, normal := { arg := 100, rval := 0, rstat := 0 } }) =
    some (100, false, true, .armed, 0) := by decide

/-- Vector S9 (95, 3.7). -/
theorem test_start_S9_callback_bank : view (fun t => (t.compare, t.normal.arg))
    (command .start 4 { inCallback with
      normal := { arg := 0x100, rval := 0, rstat := 0 }, callback := { arg := 0x500, rval := 0, rstat := 0 } }) =
    some (0x500, 0x100) := by decide

/-- Vector P1 (95, 3.8). -/
theorem test_stop_P1 : view (fun t => (t.ie, t.pending, t.astate, t.compare))
    (command .stop 3 { raised idle with compare := 100 }) = some (false, false, .disarmed, 100) := by decide

/-- Vector E3 (95, 3.9). -/
theorem test_set_E3 : view (fun t => (t.compare, t.pending, irq t))
    (command .set 1 { raised idle with normal := { arg := 0x800, rval := 0, rstat := 0 } }) = some (0x800, true, true) := by
  decide

theorem test_get : view (fun t => t.normal.rval) (command .get 1 { idle with compare := 0xABCDEF }) = some 0xABCDEF := by
  decide

theorem test_isActive : view (fun t => t.normal.rval) (command .isActive 1 (raised idle)) = some 1 ∧
    view (fun t => t.normal.rval) (command .isActive 1 (raised idleCc)) = some 1 ∧
    view (fun t => t.normal.rval) (command .isActive 1 idleCc) = some 0 := by decide

theorem test_cbret : view (fun t => (t.ctx, t.callback.rstat)) (command .cbret 1 inCallback) = some (.normal, 0) := by decide

/-- 95, 3.13. -/
theorem test_status : view (fun t => t.normal.rval) (command .status 1 { State.reset with pending := true }) = some 4 ∧
    view (fun t => t.normal.rval) (command .status 1 idle) = some 9 ∧
    view (fun t => t.callback.rval) (command .status 1 { inCallback with ie := true, astate := .armed }) = some 0x1B := by
  decide

/-- 95, 3.13: the items at both ends of the range, and beyond it. -/
theorem test_info :
    view (fun t => t.normal.rval) (command .info 1 { idle with normal := { arg := 0, rval := 0, rstat := 0 } }) = some 24 ∧
    view (fun t => t.normal.rval) (command .info 1 { idle with normal := { arg := 5, rval := 0, rstat := 0 } }) = some 5 ∧
    view (fun t => t.normal.rstat) (command .info 1 { idle with normal := { arg := 6, rval := 0, rstat := 0 } }) =
      some 0x615 ∧
    view (fun t => t.normal.rstat) (command .info 1 { idle with normal := { arg := 0xFFFFFFFF, rval := 0, rstat := 0 } }) =
      some 0xFFFFFF15 := by decide

/-! ## The μops -/

theorem test_uInit_fault_order :
    validateConfig { referenceConfig with backendSel := 3, modeSel := 3 } = some (0x01, 3) ∧
    validateConfig { referenceConfig with modeSel := 3, lookahead := 0 } = some (0x02, 3) ∧
    validateConfig { referenceConfig with lookahead := 4 } = some (0x03, 4) ∧
    validateConfig { referenceConfig with modeSel := 0, period := 0 } = some (0x04, 0) ∧
    validateConfig { referenceConfig with modeSel := 0, period := 0x1000000 } = some (0x04, 0) ∧
    validateConfig { referenceConfig with modeSel := 0, period := 0xFFFFFF, lookahead := 0 } = none ∧
    validateConfig { referenceConfig with modeSel := 0, period := 1 } = none ∧ validateConfig referenceConfig = none := by
  decide

theorem test_uReadCnt : view (fun t => t.result) (exec .uReadCnt { idle with counter := 0x123456 }) = some 0x123456 := by
  decide

theorem test_uCapture_uReadCap : view (fun t => (t.capture, t.compare)) (exec .uCapture { idleCc with counter := 0x10 }) =
    some (0x10, 0) ∧ view (fun t => t.result) (exec .uReadCap { idleCc with capture := 0x10 }) = some 0x10 := by decide

/-- Vectors A1 to A7 (95, 3.5). -/
theorem test_uArmArg : view (fun t => (t.compare, t.pending, t.near))
      (exec .uArmArg { idle with counter := 10, seqArg := 10 }) = some (10, false, false) ∧
    view (fun t => (t.pending, t.hist))
      (exec .uArmArg { idle with counter := 10, seqArg := 10, cfg := { idle.cfg with pWriteEqMatch := true } }) =
      some (true, [.matched 10]) ∧
    view (fun t => t.near) (exec .uArmArg { idle with counter := 10, seqArg := 12, cfg := { idle.cfg with missWindow := 2 } }) =
      some true ∧
    view (fun t => t.near) (exec .uArmArg { idle with counter := 10, seqArg := 13, cfg := { idle.cfg with missWindow := 2 } }) =
      some false ∧
    view (fun t => t.near) (exec .uArmArg { idle with counter := 10, seqArg := 9, cfg := { idle.cfg with missWindow := 2 } }) =
      some false ∧
    view (fun t => (t.compare, t.pending)) (exec .uArmArg { idle with pending := true, seqArg := 0xFF000123 }) =
      some (0x123, true) := by decide

/-- Vector A9 (95, 3.5). -/
theorem test_uArmPer : view (fun t => t.compare) (exec .uArmPer { periodic 0x20 with compare := 0xFFFFF0 }) = some 0x10 := by
  decide

/-- 95, 3.6. -/
theorem test_flag_uops : view (fun t => (t.pending, t.ie)) (exec .uClr (raised idle)) = some (false, true) ∧
    view (fun t => (t.ie, irq t)) (exec .uIe1 { idle with pending := true }) = some (true, true) ∧
    view (fun t => (t.ie, t.pending)) (exec .uIe0 (raised idle)) = some (false, true) := by decide

theorem test_query_uops : view (fun t => t.result) (exec .uQie (raised idle)) = some 1 ∧
    view (fun t => t.result) (exec .uQshadow { idleCc with astate := .armed }) = some 1 ∧
    view (fun t => t.result) (exec .uQshadow { idleCc with ie := true }) = some 0 ∧
    view (fun t => t.result) (exec .uRdcmp { idle with compare := 0x3E8 }) = some 0x3E8 := by decide

theorem test_unavailable_uop : view (fun t => (t.fault, t.faultInfo, t.seq))
    (exec .uCapture { idle with seq := [0x83] }) = some (0x17, 0x82, []) := by decide

theorem test_astate_uops : view (fun t => t.astate) (exec .uArmed idle) = some .armed ∧
    view (fun t => t.astate) (exec .uDisarmed (raised idle)) = some .disarmed := by decide

theorem test_uNotify : view (fun t => (t.ctx, t.hist, t.normal.rval))
    (exec .uNotify { idle with ctx := .service, seqCtx := .service, result := 5 }) = some (.callback, [.notify], 0) := by
  decide

theorem test_uCbret : view (fun t => (t.ctx, t.callback.rstat))
    (exec .uCbret { inCallback with seqCtx := .callback, callback := { arg := 0, rval := 9, rstat := 9 } }) =
    some (.normal, 0) := by decide

theorem test_uStatus_uInfo : view (fun t => t.result) (exec .uStatus { raised inCallback with seqCtx := .callback }) =
      some 0x1F ∧
    view (fun t => t.result) (exec .uInfo { idle with seqArg := 0, cfg := { idle.cfg with backendSel := 2 } }) = some 0 ∧
    view (fun t => t.result) (exec .uInfo { idle with seqArg := 1, cfg := { idle.cfg with backendSel := 2 } }) = some 2 := by
  decide

/-! ## The services (95, 3.12, vectors V1 and V2) -/

theorem test_service_V1 : view (fun t => (t.pending, t.compare, t.ie, t.astate, t.ctx))
    (runSteps 4 (moves [.accept, .sequencer, .sequencer, .sequencer]
      { raised (periodic 0x20) with compare := 0xFFFFF0, counter := 0xFFFFF0 })) =
    some (false, 0x10, true, .armed, .callback) := by decide

theorem test_service_V2 : view (fun t => (t.pending, t.compare, t.ie, t.astate, t.ctx))
    (runSteps 6 (moves [.accept, .sequencer, .sequencer, .sequencer, .sequencer, .sequencer]
      { raised idle with compare := 1000 })) = some (false, 1000, false, .disarmed, .callback) := by decide

/-- 95, 3.12: each condition of ACCEPT. -/
theorem test_accept_conditions : acceptEnabled (raised idle) = true ∧ acceptEnabled { raised idle with fault := 1 } = false ∧
    acceptEnabled { raised idle with initDone := false } = false ∧
    acceptEnabled { raised idle with ctx := .service } = false ∧
    acceptEnabled { raised idle with ctx := .callback } = false ∧
    acceptEnabled { raised idle with seq := [0x8B] } = false ∧ acceptEnabled { raised idle with ie := false } = false ∧
    acceptEnabled { raised idle with pending := false } = false := by decide

/-! ## The end of a run (R151) -/

/-- A run whose host issues INIT alone ENDS when INIT has responded, not at the tick scheduled after it. -/
theorem test_end_at_first_state : ∃ t, Ends (moves [cmdWrite State.reset .init, .sequencer, .tick] State.reset) t ∧
    t.initDone = true ∧ t.schedule = [.tick] ∧ t.counter = 0 :=
  ⟨_, ⟨.snoc (.snoc (.refl _) rfl rfl) rfl rfl, by decide⟩, by decide⟩

/-- 70, R151: no END with an access to come, in a sequence, or in the callback; a raised request does not prevent it. -/
theorem test_atEnd : atEnd (moves [.tick, writeAt 4 1] idle) = false ∧ atEnd (moves [] { idle with seq := [0x86] }) = false ∧
    atEnd inCallback = false ∧ atEnd (raised idle) = true := by decide

theorem test_observed_needs_no_fault : ¬ Observed (fun _ => True) faultedIdle := by
  rintro ⟨t, h, hs, _⟩
  have := ends_unique h ⟨.refl _, by decide⟩
  subst this; exact absurd hs (by decide)

/-! ## Fetching from reset -/

theorem test_withFetchWord_command : step (State.reset.withFetchWord 32 0x01) = exec .init State.reset := rfl

theorem test_withFetchWord_uop : step (State.reset.withFetchWord 8 0x86) = exec .uClr State.reset := rfl

/-! ## Witnesses: states and operands that meet the hypotheses of the obligations, clause by clause -/

/-- In the middle of START, and at the start of a service. -/
def midStart : State := { idle with seq := [0x86, 0x87, 0x8C], seqOpc := 3 }
def inService : State := enterService (raised idle)

theorem test_idle_inv : Inv idle := by
  constructor <;> first | decide | exact .inl rfl | simp [enableAgrees, codes, idle, State.reset, State.resetWith]

theorem test_idleCc_inv : Inv idleCc := by
  constructor <;> first | decide | exact .inl rfl | simp [enableAgrees, codes, idleCc, idle, State.reset, State.resetWith]

theorem test_raised_inv : Inv (raised idle) := by
  constructor <;> first | decide | exact .inl rfl | simp [enableAgrees, codes, raised, idle, State.reset, State.resetWith]

theorem test_raisedPeriodic_inv : Inv (raised (periodic 0x20)) := by
  constructor <;>
    first | decide | exact .inl rfl | simp [enableAgrees, codes, raised, periodic, idle, State.reset, State.resetWith]

theorem test_inCallback_inv : Inv inCallback := by
  constructor <;> first | decide | exact .inl rfl | simp [enableAgrees, codes, inCallback, idle, State.reset, State.resetWith]

theorem test_faultedIdle_inv : Inv faultedIdle := by
  constructor <;> first | decide | exact .inl rfl | simp [enableAgrees, codes, faultedIdle, State.reset, State.resetWith]

theorem test_midStart_inv : Inv midStart := by
  constructor <;> first
    | decide
    | exact .inr (.inl ⟨by decide, rfl, _, by simp [commandSequences]; exact .inr (.inr (.inl rfl)), by decide⟩)
    | simp [enableAgrees, codes, midStart, idle, State.reset, State.resetWith, Instr.code]

theorem test_inService_inv : Inv inService := by
  constructor <;> first
    | decide
    | exact .inr (.inr ⟨rfl, rfl, List.suffix_refl _⟩)
    | simp [enableAgrees, codes, inService, enterService, serviceSequence, raised, idle, State.reset, State.resetWith,
        referenceConfig, Instr.code]

theorem test_raised_budget : MatchBudget (raised idle) := ⟨by decide, by decide⟩

/-- A run from RESET to a raised request: INIT, ARG, START, one tick that arrives. -/
def bootMoves : List Move := [cmdWrite State.reset .init, .sequencer, writeAt 4 1, cmdWrite State.reset .start, .sequencer,
  .sequencer, .sequencer, .sequencer, .tick, .accept]

def booted : State := (view id (runSteps 9 (moves bootMoves State.reset))).getD State.reset

theorem test_booted_reachable : Reachable booted :=
  ⟨referenceConfig, zeroDraws, bootMoves, by decide, path_of_runSteps (k := 9) rfl⟩

/-! Encoding and the step. -/

theorem test_witness_IllegalWordsRejectedByName :
    rsvField 0x100 ≠ 0 ∧ rsvField 0xFFFFFFFF ≠ 0 ∧ (rsvField 0 = 0 ∧ opcField 0 = 0) ∧
    (rsvField 0x0B = 0 ∧ 0x0B ≤ (opcField 0x0B).toNat) ∧ (rsvField 0xFF = 0 ∧ 0x0B ≤ (opcField 0xFF).toNat) ∧
    (rsvField 1 = 0 ∧ 1 ≤ (opcField 1).toNat ∧ (opcField 1).toNat ≤ 0x0A) ∧
    (rsvField 0x0A = 0 ∧ 1 ≤ (opcField 0x0A).toNat ∧ (opcField 0x0A).toNat ≤ 0x0A) := by decide

theorem test_witness_StepRunsWrittenCommand : ∃ s : State, s.schedule = [.host (.write s.cfg.base [3, 0, 0, 0])] ∧
    held s = false ∧ decodeBytes [3, 0, 0, 0] = .ok .start :=
  ⟨moves [.host (.write 0 [3, 0, 0, 0])] idle, by decide⟩

theorem test_witness_StepRunsSequencerHead : ∃ s : State, s.schedule = [.sequencer] ∧ s.seq = [0x86, 0x87, 0x8C] ∧
    decodeBytes [0x86] = .ok .uClr := ⟨moves [.sequencer] midStart, by decide⟩

theorem test_witness_HeldHostWaitsForSequencer : (∃ s : State, s.schedule = [.host (.read 4 4)] ∧
      s.seq = [0x86, 0x87, 0x8C] ∧ decodeBytes [0x86] = .ok .uClr) ∧
    Instr.isCommand .stop = true ∧ held midStart = true ∧ held inService = true :=
  ⟨⟨moves [.host (.read 4 4)] midStart, by decide⟩, by decide⟩

theorem test_witness_TickCountsAndLatchesArrival : State.reset.run = false ∧
    (idle.run = true ∧ addW (width idle.cfg) idle.counter 1 ≠ idle.compare) ∧
    ∃ s : State, s.run = true ∧ addW (width s.cfg) s.counter 1 = s.compare ∧ s.near = false ∧
      addW (width { s with near := true }.cfg) s.counter 1 = s.compare :=
  ⟨by decide, by decide, { idle with compare := 1 }, by decide⟩

theorem test_witness_AcceptEntersServiceOnlyWhenEnabled : ∃ s : State, s.schedule = [.accept] ∧ s.fault = 0 ∧
    s.initDone = true ∧ s.ctx = .normal ∧ s.seq = [] ∧ s.pending = true ∧ s.ie = true :=
  ⟨moves [.accept] (raised idle), by decide⟩

/-- Each way ACCEPT is not enabled. -/
theorem test_witness_AcceptNotEnabled : (moves [.accept] faultedIdle).fault ≠ 0 ∧
    (moves [.accept] State.reset).initDone = false ∧ (moves [.accept] inCallback).ctx ≠ .normal ∧
    (moves [.accept] { raised idle with seq := [0x8B] }).seq ≠ [] ∧ (moves [.accept] idle).pending = false ∧
    (moves [.accept] idle).ie = false := by decide

theorem test_witness_OnlyForeignAccessesStop : Inv (moves [.host (.read 16 4)] idle) ∧
    step (moves [.host (.read 16 4)] idle) = .fault (.outsideWindow 16) :=
  ⟨by constructor <;> first | decide | exact .inl rfl | exact test_idle_inv.enable, rfl⟩

/-! The port. -/

theorem test_witness_PortUsesContextBank : held idle = false ∧ idle.ctx = .normal ∧ held inCallback = false ∧
    inCallback.ctx = .callback ∧ (moves [writeAt 4 7] idle).schedule = [.host (.write (idle.cfg.base + 4) (wordBytes 7))] := by
  decide

theorem test_witness_WindowBytesAreLittleEndian : held idle = false ∧
    (moves [.host (.read 12 4)] idle).schedule = [.host (.read (idle.cfg.base + 12) 4)] := by decide

/-- Accesses at both ends of the window, and a word access to a read-only register. -/
theorem test_witness_BadAccessOnlyFaults (a : Access)
    (ha : a = .read 0 4 ∨ a = .read 15 1 ∨ a = .write 12 [1, 2, 3, 4] ∨ a = .write 4 [1] ∨ a = .read 12 8) :
    a.wf = true ∧ (∃ off < 16, accessAddr a = idle.cfg.base + off) ∧ held idle = false ∧ held inCallback = false ∧
    idle.fault = 0 ∧ faultedIdle.fault ≠ 0 ∧ (∀ bs, a ≠ .write idle.cfg.base bs ∨ bs.length ≠ 4) ∧
    (∀ bs, a ≠ .write (idle.cfg.base + 4) bs ∨ bs.length ≠ 4) ∧ ∀ k ∈ [4, 8, 12], a ≠ .read (idle.cfg.base + k) 4 := by
  have hb : idle.cfg.base = 0 := rfl
  rcases ha with rfl | rfl | rfl | rfl | rfl
  all_goals
    refine ⟨by decide, ⟨_, ?_, (Nat.zero_add _).symm⟩, by decide, by decide, by decide, by decide, ?_, ?_, ?_⟩ <;>
      simp [hb, accessAddr]
  intro bs; by_cases h : [1] = bs
  · exact .inr (by rw [← h]; decide)
  · exact .inl h

theorem test_witness_FaultedBlockAnswersRecord : held faultedIdle = false ∧ faultedIdle.fault ≠ 0 ∧
    faultedIdle.ctx = .normal ∧ held { inCallback with fault := 0x16 } = false := by decide

theorem test_witness_IllegalCommandWordFaults : ready idle = true ∧ idle.ctx = .normal ∧ ready inCallback = true ∧
    inCallback.ctx = .callback ∧ (rsvField 0x80000003 ≠ 0 ∧ rsvField 0x80000003 = 0x800000) ∧
    (rsvField 0x0B = 0 ∧ 0x0B ≤ (opcField 0x0B).toNat ∧ (opcField 0x0B).setWidth 24 = 0x0B) := by decide

/-- One word for each branch of the dispatch, at the ends of its range. -/
theorem test_witness_DispatchChecksInOrder : (held faultedIdle = false ∧ faultedIdle.fault ≠ 0) ∧ held idle = false ∧
    idle.fault = 0 ∧ rsvField 0x100 ≠ 0 ∧ (rsvField 0 = 0 ∧ opcField 0 = 0) ∧
    (rsvField 0x0B = 0 ∧ opcField 0x0B = 0x0B) ∧ (rsvField 1 = 0 ∧ opcField 1 = 0x01 ∧ idle.initDone = true) ∧
    (opcField 2 = 0x02 ∧ held State.reset = false ∧ State.reset.fault = 0 ∧ State.reset.initDone = false) ∧
    (opcField 8 = 0x08 ∧ idle.ctx ≠ .callback) ∧ (rsvField 0x0A = 0 ∧ opcField 0x0A = 0x0A) := by decide

theorem test_witness_PortUsesContextBank_exec : ∃ t : State, exec .get idle = .next t ∧ t.normal.arg = idle.normal.arg :=
  ⟨_, rfl, rfl⟩

/-! Invariants and writers. -/

theorem test_witness_StepKeepsInvariant : ∃ t, Inv idle ∧ step (moves [.tick] idle) = .next t ∧
    Inv (moves [.tick] idle) :=
  ⟨_, test_idle_inv, rfl, by constructor <;> first | decide | exact .inl rfl | exact test_idle_inv.enable⟩

theorem test_witness_StepKeepsMatchBudget : ∃ t, Inv (raised idle) ∧ MatchBudget (raised idle) ∧
    step (moves [.accept] (raised idle)) = .next t := ⟨_, test_raised_inv, test_raised_budget, rfl⟩

theorem test_witness_IdleEnableIffArmed : Reachable booted ∧ booted.seq = [] ∧ booted.ie = true ∧ booted.pending = true :=
  ⟨test_booted_reachable, by decide⟩

theorem test_witness_NoInterruptWhileDisarmed : ∃ t, Reachable booted ∧ step booted = .next t ∧ booted.ctx ≠ .service ∧
    t.ctx = .service := ⟨_, test_booted_reachable, rfl, by decide, rfl⟩

theorem test_witness_NotifyAtMostOncePerMatch : Reachable booted ∧ matchCount booted.hist = 1 :=
  ⟨test_booted_reachable, by decide⟩

theorem test_witness_FaultIsStickyAndSilent : ∃ t, Inv faultedIdle ∧ faultedIdle.fault ≠ 0 ∧
    step (moves [.host (.read 8 1)] faultedIdle) = .next t := ⟨_, test_faultedIdle_inv, by decide, rfl⟩

theorem test_witness_OnlyTickWritesCounter : ∃ t, step (moves [.tick] idle) = .next t ∧ t.counter ≠ idle.counter :=
  ⟨_, rfl, by decide⟩

/-- A latch by a tick, by a write equal to the count, and a clear. -/
theorem test_witness_PendingRisesByMatchFallsByClear :
    view (·.pending) (step (moves [.tick] { idle with compare := 1 })) = some true ∧
    view (·.pending) (step (moves [.sequencer] { idle with
      seq := [0x84], cfg := { idle.cfg with pWriteEqMatch := true } })) = some true ∧
    view (·.pending) (step (moves [.sequencer] { raised idle with seq := [0x86] })) = some false := by decide

theorem test_witness_AlarmRegisterWriters :
    view (·.compare) (step (moves [.sequencer] { idle with seq := [0x84], seqArg := 9 })) = some 9 ∧
    view (·.ie) (step (moves [.sequencer] { idle with seq := [0x87] })) = some true ∧
    view (·.astate) (step (moves [.sequencer] { idle with seq := [0x8C] })) = some .armed ∧
    view (·.run) (step (moves [.sequencer] { State.reset with seq := [0x80] })) = some true ∧
    view (·.capture) (step (moves [.sequencer] { idleCc with seq := [0x82], counter := 9 })) = some 9 := by decide

/-- NEAR set by a compare write; CTX by an acceptance, U_NOTIFY and U_CBRET. -/
theorem test_witness_AlarmRegisterWriters_near_ctx :
    view (·.near) (step (moves [.sequencer] { idle with
      seq := [0x84], seqArg := 1, cfg := { idle.cfg with missWindow := 2 } })) = some true ∧
    view (·.ctx) (step (moves [.accept] (raised idle))) = some .service ∧
    view (·.ctx) (step (moves [.sequencer] { idle with seq := [0x8E] })) = some .callback ∧
    view (·.ctx) (step (moves [.sequencer] { inCallback with seq := [0x8F] })) = some .normal := by decide

/-- A tick that arrives at COMPARE clears NEAR, whatever the draw. -/
theorem test_witness_AlarmRegisterWriters_near_tick : view (·.near)
    (step (moves [.tick] { idle with compare := 1, near := true })) = some false := rfl

theorem test_witness_BanksKeepContextsApart :
    (∃ t, Inv inCallback ∧ inCallback.ctx ≠ .normal ∧ step (moves [writeAt 4 7] inCallback) = .next t) ∧
    ∃ t, Inv idle ∧ idle.ctx = .normal ∧ step (moves [writeAt 4 7] idle) = .next t :=
  ⟨⟨_, test_inCallback_inv, by decide, rfl⟩, _, test_idle_inv, by decide, rfl⟩

theorem test_witness_HistoryGrowsWithoutEffect : ∃ t, step (moves [.tick] { idle with compare := 1 }) = .next t ∧
    t.hist = [.matched 1] := ⟨_, rfl, by decide⟩

theorem test_witness_ParametersFixedAndClaimOnesUnread : ∃ t, step (moves [.tick] idle) = .next t := ⟨_, rfl⟩

theorem test_witness_OtherUopsIgnoreOperand : ∃ t, Instr.isUop .uRdcmp = true ∧ exec .uRdcmp idle = .next t :=
  ⟨_, by decide, rfl⟩

/-! Commands and μops. -/

theorem test_witness_CommandsLoadTheirSequence : ready State.reset = true ∧ State.reset.initDone = false ∧
    ready inCallback = true ∧ inCallback.initDone = true ∧ inCallback.ctx = .callback ∧ ready idle = true ∧
    idle.initDone = true ∧ idle.cfg.backendSel = 0 ∧ ready idleCc = true ∧ idleCc.initDone = true ∧
    idleCc.cfg.backendSel = 1 := by decide

theorem test_witness_DispatchFaultsByCommand : ready idle = true ∧ idle.initDone = true ∧ idle.ctx ≠ .callback ∧
    ready State.reset = true ∧ State.reset.initDone = false := by decide

theorem test_witness_LastUopResponds : midStart.seq ≠ [] ∧ inService.seqCtx = .service ∧
    (idle.seq = [] ∧ idle.seqCtx = .normal) ∧
    ∃ s : State, s.seq = [] ∧ s.seqCtx = .callback := ⟨by decide, by decide, by decide, { idle with seqCtx := .callback }, by decide⟩

theorem test_witness_backends : idle.cfg.backendSel = 0 ∧ idleCc.cfg.backendSel = 1 := by decide

/-- Both μops, the count equal (with and without `P_WRITE_EQ_MATCH`) and not equal. -/
theorem test_witness_ArmUopsWriteCompare :
    ((0 : Word) = BitVec.ofNat 32 (idle.seqArg.toNat % 2 ^ width idle.cfg) ∧ (0 : Word) = idle.counter ∧
      idle.cfg.pWriteEqMatch = false) ∧
    (∃ s : State, s.counter = BitVec.ofNat 32 (s.seqArg.toNat % 2 ^ width s.cfg) ∧ s.cfg.pWriteEqMatch = true) ∧
    (0x20 : Word) = BitVec.ofNat 32 (((periodic 0x20).compare.toNat + (periodic 0x20).cfg.period.toNat) %
      2 ^ width (periodic 0x20).cfg) ∧ (0x20 : Word) ≠ (periodic 0x20).counter :=
  ⟨by decide, ⟨{ idle with cfg := { idle.cfg with pWriteEqMatch := true } }, by decide⟩, by decide⟩

theorem test_witness_InfoItems (k : Word) :
    (∃ s : State, s.seqArg = k ∧ s.cfg.backendSel = 0) ∧ (∃ s : State, s.seqArg = k ∧ s.cfg.backendSel = 1) ∧
    (∃ s : State, s.seqArg = k ∧ 2 ≤ s.cfg.backendSel.toNat) ∧ 6 ≤ (6 : Word).toNat :=
  ⟨⟨{ idle with seqArg := k }, rfl, rfl⟩, ⟨{ idleCc with seqArg := k }, rfl, rfl⟩,
    ⟨{ idle with seqArg := k, cfg := { idle.cfg with backendSel := 2 } }, rfl, (by decide : 2 ≤ (2 : BitVec 2).toNat)⟩,
    by decide⟩

/-- Both modes at the ends of their ranges: the look-ahead equal to the floor, the period 1 and `2^W - 1`. -/
theorem test_witness_InitSetsUpOnLegalConfiguration :
    (State.reset.cfg.backendSel = 0 ∧ State.reset.cfg.modeSel = 1 ∧
      State.reset.cfg.floorRtc.toNat = State.reset.cfg.lookahead.toNat) ∧
    (idleCc.cfg.backendSel = 1 ∧ idleCc.cfg.floorCc.toNat = idleCc.cfg.lookahead.toNat) ∧
    ((periodic 1).cfg.modeSel = 0 ∧ (1 : Word).toNat < 2 ^ width (periodic 1).cfg) ∧
    (0xFFFFFF : Word).toNat = 2 ^ width (periodic 0xFFFFFF).cfg - 1 := by decide

theorem test_witness_InitRejectsIllegalConfiguration :
    (2 ≤ (2 : BitVec 2).toNat ∧ 2 ≤ (3 : BitVec 2).toNat) ∧
    (State.reset.cfg.backendSel.toNat < 2 ∧ State.reset.cfg.modeSel = 1 ∧
      (4 : Word).toNat < State.reset.cfg.floorRtc.toNat) ∧
    ((periodic 0).cfg.modeSel = 0 ∧ (periodic 0).cfg.period = 0) ∧
    2 ^ width (periodic 0x1000000).cfg = (periodic 0x1000000).cfg.period.toNat := by decide

/-! Whole commands and services. -/

theorem test_witness_commands_ready : Inv idle ∧ idle.cfg.wf = true ∧ ready idle = true ∧ idle.initDone = true ∧
    Inv idleCc ∧ idleCc.cfg.wf = true ∧ ready idleCc = true ∧ idleCc.initDone = true ∧ idleCc.cfg.backendSel = 1 ∧
    Inv inCallback ∧ inCallback.cfg.wf = true ∧ ready inCallback = true ∧ inCallback.initDone = true ∧
    inCallback.ctx = .callback :=
  ⟨test_idle_inv, by decide, by decide, by decide, test_idleCc_inv, by decide, by decide, by decide, by decide,
    test_inCallback_inv, by decide, by decide, by decide, by decide⟩

theorem test_witness_StatusAndInfoAnswer : ready State.reset = true ∧ infoItem idle.cfg 0 = some 24 ∧
    infoItem idle.cfg 5 = some 5 ∧ 5 < (6 : Word).toNat ∧ (bankOf { idle with normal := { idle.normal with arg := 6 } }
      .normal).arg = 6 := by decide

theorem test_witness_InitFromResetSetsUp : validateConfig referenceConfig = none := by decide

theorem test_witness_services : Inv (raised (periodic 0x20)) ∧ acceptEnabled (raised (periodic 0x20)) = true ∧
    (raised (periodic 0x20)).cfg.modeSel = 0 ∧ Inv (raised idle) ∧ acceptEnabled (raised idle) = true ∧
    (raised idle).cfg.modeSel = 1 ∧ (raised idle).cfg.pWriteEqMatch = false :=
  ⟨test_raisedPeriodic_inv, by decide, by decide, test_raised_inv, by decide, by decide, by decide⟩

theorem test_witness_SequencesEnd : Inv midStart ∧ midStart.seq.length = 3 ∧ Inv inService ∧ inService.seq.length = 5 :=
  ⟨test_midStart_inv, by decide, test_inService_inv, by decide⟩

theorem test_witness_SequencesEnd_ends : hostDone midStart = true ∧ midStart.ctx = .normal ∧
    (∃ s : State, Inv s ∧ hostDone s = true ∧ s.ctx = .callback ∧ s.seq = [0x8F]) :=
  ⟨by decide, by decide, { inCallback with seqCtx := .callback, seq := [0x8F] }, by
    constructor <;> first
      | decide
      | exact .inr (.inl ⟨by decide, rfl, [.uCbret], by simp [commandSequences], by decide⟩)
      | simp [enableAgrees, codes, inCallback, idle, State.reset, State.resetWith, Instr.code],
    by decide, by decide, by decide⟩

/-- At the two ends: the deadline one tick ahead, and the deadline equal to the count, a whole wrap away. -/
theorem test_witness_FirstMatchAtModularDistance : Inv idle ∧ idle.cfg.wf = true ∧ idle.run = true ∧ idle.near = false ∧
    idle.compare = idle.counter ∧ 2 ^ width idle.cfg - 1 < 2 ^ width idle.cfg ∧
    (∃ s : State, Inv s ∧ s.cfg.wf = true ∧ s.run = true ∧ s.near = false ∧ s.compare ≠ s.counter ∧
      mdiffW (width s.cfg) s.compare s.counter = 1) :=
  ⟨test_idle_inv, by decide, by decide, by decide, by decide, by decide, { idle with compare := 1 }, by
    constructor <;> first | decide | exact .inl rfl | exact test_idle_inv.enable, by decide⟩

/-- The state of log entry 12: `MISS_WINDOW = 3`, the deadline 4 ahead. -/
def nearStart : State :=
  { idle with cfg := { idle.cfg with missWindow := 3 }, normal := { arg := 4, rval := 0, rstat := 0 } }

theorem test_witness_Lookahead : Inv nearStart ∧ nearStart.cfg.wf = true ∧ ready nearStart = true ∧
    nearStart.initDone = true ∧ (4 : Word) = truncW (width nearStart.cfg) (bankOf nearStart nearStart.ctx).arg ∧
    (0 + nearStart.cfg.missWindow < mdiffW (width nearStart.cfg) 4 nearStart.counter) ∧ lookaheadKept 3 4 nearStart :=
  ⟨by constructor <;> first | decide | exact .inl rfl | exact test_idle_inv.enable, by decide, by decide, by decide,
    by decide, by decide, by unfold lookaheadKept; decide⟩

/-- One whole service is a path with no START, SET or STOP. -/
theorem test_witness_PeriodicRearmLaw : ∃ s t, Inv s ∧ s.cfg.wf = true ∧ s.cfg.modeSel = 0 ∧ s.seq = [] ∧
    s.initDone = true ∧ Path noAlarmCommand s t ∧ t.ctx ≠ .service ∧ notifyCount t.hist = 1 :=
  ⟨moves [.accept, .sequencer, .sequencer, .sequencer] (raised (periodic 0x20)), _,
    by constructor <;> first | decide | exact .inl rfl | exact test_raisedPeriodic_inv.enable,
    by decide, by decide, by decide, by decide,
    .snoc (.snoc (.snoc (.snoc (.refl _) rfl rfl) rfl rfl) rfl rfl) rfl rfl, by decide, by decide⟩

theorem test_witness_TickAndClearBothOrders : ∃ s : State, s.run = true ∧ s.near = false ∧ s.seq = [0x86] ∧
    addW (width s.cfg) s.counter 1 = s.compare := ⟨{ idle with seq := [0x86], compare := 1 }, by decide⟩

/-- Ticks and ACCEPT moves between the moves, in both modes. -/
theorem test_witness_StopAndAcceptBothOrders (mode : BitVec 2) (h : mode = 0 ∨ mode = 1) :
    ∃ (s : State) (ls : List (List Move)), Inv s ∧ acceptEnabled s = true ∧ s.cfg.modeSel = mode ∧
      ls.length = (if s.cfg.modeSel = 0 then 3 else 5) ∧ ls.all ticksAndAccepts = true ∧
      ticksAndAccepts [.tick, .accept, .tick] = true ∧ Move.tick ∉ ([.accept] : List Move) := by
  rcases h with rfl | rfl
  · exact ⟨raised (periodic 0x20), List.replicate 3 [.tick, .accept], test_raisedPeriodic_inv, by decide⟩
  · exact ⟨raised idle, List.replicate 5 [.tick, .accept], test_raised_inv, by decide⟩

/-- The boundaries of R13's order, at the narrowest and the widest count. -/
theorem test_witness_ModularOrderMatchesElapsedTime : (3 : Word).toNat < 2 ^ 2 ∧ 1 < 2 ^ (2 - 1) ∧ 2 = 2 ^ (2 - 1) ∧
    (0xFFFFFFFF : Word).toNat < 2 ^ 32 ∧ 0x7FFFFFFF < 2 ^ (32 - 1) ∧ 0x80000000 = 2 ^ (32 - 1) := by decide

end Sys2Proof.Tests
end

section
/-!
Modular time (spec/00_scope.md R12, R13): a point `k` ticks ahead of the count is at modular distance `k`, the count is at
distance `2^W - k` from that point, and the order of R13 is read off the two distances.
-/

namespace Sys2Proof.Proofs

open Sys2Proof.Machine Sys2Proof.Laws

section ModularTime

variable {w k : Nat} {a b : Word}

/-- R12's sum, where W bits fit one port word. -/
theorem addW_toNat (hw : w ≤ 32) (a b : Word) : (addW w a b).toNat = (a.toNat + b.toNat) % 2 ^ w := by
  have hlt : (a.toNat + b.toNat) % 2 ^ w < 2 ^ 32 :=
    (Nat.mod_lt _ (Nat.two_pow_pos w)).trans_le (Nat.pow_le_pow_right two_pos hw)
  rw [addW, BitVec.toNat_ofNat, Nat.mod_eq_of_lt hlt]

theorem addW_ofNat_toNat (hw : w ≤ 32) (hk : k < 2 ^ w) :
    (addW w a (BitVec.ofNat 32 k)).toNat = (a.toNat + k) % 2 ^ w := by
  have hk32 : k < 2 ^ 32 := hk.trans_le (Nat.pow_le_pow_right two_pos hw)
  rw [addW_toNat hw, BitVec.toNat_ofNat, Nat.mod_eq_of_lt hk32]

/-- The distance to a point is the number of ticks by which it is ahead, across the wrap too. -/
theorem mdiffW_of_ahead (ha : a.toNat < 2 ^ w) (hk : k < 2 ^ w) (hb : b.toNat = (a.toNat + k) % 2 ^ w) :
    mdiffW w b a = k := by
  rw [mdiffW, hb, Nat.mod_eq_of_lt ha, Nat.mod_add_mod, show a.toNat + k + (2 ^ w - a.toNat) = k + 2 ^ w by omega,
    Nat.add_mod_right, Nat.mod_eq_of_lt hk]

/-- A point `k` ticks ahead of the count is `2^W - k` ticks behind it: the two distances make up the modulus. -/
theorem mdiffW_back_of_ahead (ha : a.toNat < 2 ^ w) (hpos : 1 ≤ k) (hk : k < 2 ^ w)
    (hb : b.toNat = (a.toNat + k) % 2 ^ w) : mdiffW w a b = 2 ^ w - k := by
  have hlt : b.toNat < 2 ^ w := hb ▸ Nat.mod_lt _ (Nat.two_pow_pos w)
  have hback : a.toNat = (b.toNat + (2 ^ w - k)) % 2 ^ w := by
    rw [hb, Nat.mod_add_mod, show a.toNat + k + (2 ^ w - k) = a.toNat + 2 ^ w by omega, Nat.add_mod_right,
      Nat.mod_eq_of_lt ha]
  exact mdiffW_of_ahead hlt (by omega) hback

theorem sdiffW_of_lt_half (h : mdiffW w b a < 2 ^ (w - 1)) : sdiffW w b a = mdiffW w b a := if_pos h

theorem sdiffW_of_half_le (h : 2 ^ (w - 1) ≤ mdiffW w b a) : sdiffW w b a = (mdiffW w b a : Int) - 2 ^ w :=
  if_neg (Nat.not_lt.mpr h)

/-- R13's reading of `after_W` by the unsigned distance. -/
theorem afterW_iff : afterW w b a = true ↔ 1 ≤ mdiffW w b a ∧ mdiffW w b a < 2 ^ (w - 1) := by
  rw [afterW, decide_eq_true_iff]
  rcases Nat.lt_or_ge (mdiffW w b a) (2 ^ (w - 1)) with h | h
  · rw [sdiffW_of_lt_half h]; omega
  · have hlt : (mdiffW w b a : Int) < 2 ^ w := by exact_mod_cast mdiffW_lt w b a
    rw [sdiffW_of_half_le h]; omega

theorem afterW_eq_false_iff : afterW w b a = false ↔ mdiffW w b a = 0 ∨ 2 ^ (w - 1) ≤ mdiffW w b a := by
  rw [← Bool.not_eq_true, afterW_iff]; omega

end ModularTime

/-- Settles O60: the distances to and from the point ahead are `k` and `2^W - k`, and R13's order compares each with half
the modulus. -/
theorem modularOrderMatchesElapsedTime : Obligations.ModularOrderMatchesElapsedTime := by
  intro w a k hw2 hw32 ha hk b
  have hb : b.toNat = (a.toNat + k) % 2 ^ w := addW_ofNat_toNat hw32 hk
  have hd : mdiffW w b a = k := mdiffW_of_ahead ha hk hb
  have hback (hpos : 1 ≤ k) : mdiffW w a b = 2 ^ w - k := mdiffW_back_of_ahead ha hpos hk hb
  have hhalf : 2 ^ w = 2 * 2 ^ (w - 1) := (mul_pow_sub_one (by omega) 2).symm
  have hhalf_pos : 0 < 2 ^ (w - 1) := Nat.two_pow_pos _
  refine ⟨hb, hd, fun hpos hlt => ⟨?_, ?_, ?_⟩, fun hge => ⟨?_, ?_⟩, fun heq => ⟨?_, ?_⟩⟩
  · rw [sdiffW_of_lt_half (hd ▸ hlt), hd]
  · exact afterW_iff.mpr (hd.symm ▸ ⟨hpos, hlt⟩)
  · rw [afterW_eq_false_iff, hback hpos]; omega
  · rw [sdiffW_of_half_le (hd ▸ hge), hd]
  · exact afterW_eq_false_iff.mpr (.inr (hd.symm ▸ hge))
  · exact afterW_eq_false_iff.mpr (.inr (hd.symm ▸ heq.ge))
  · rw [afterW_eq_false_iff, hback (by omega)]; omega

end Sys2Proof.Proofs
end

section
/-!
The invariant, update by update: a raised fault, a command's sequence, an acceptance, a tick.
-/

namespace Sys2Proof.Proofs

open Sys2Proof.Machine Sys2Proof.Safety Sys2Proof.Laws

section InvUpdates

variable {s : State}

/-- What is left of SEQ between `U_IE1` and `U_ARMED`, or between `U_IE0` and `U_DISARMED`. -/
def midEnable : List (List Byte) :=
  [codes [.uArmed], codes [.uClr, .uDisarmed], codes [.uDisarmed], codes [.uClr, .uDisarmed, .uNotify],
    codes [.uDisarmed, .uNotify]]

/-- Anywhere else the enable and AlarmState agree (R88). -/
theorem enableAgrees_settled (hq : s.seq ∉ midEnable) : enableAgrees s ↔ (s.ie = true ↔ s.astate = .armed) := by
  rw [midEnable, List.mem_cons, not_or] at hq
  rw [enableAgrees, if_neg hq.1, if_neg hq.2]

theorem enableAgrees_idle (hq : s.seq = []) : enableAgrees s ↔ (s.ie = true ↔ s.astate = .armed) :=
  enableAgrees_settled (by rw [hq]; decide)

/-- With nothing in SEQ, `SEQ_CTX` is free. -/
theorem inv_seqCtx (h : Inv s) (hq : s.seq = []) (c : Ctx) : Inv { s with seqCtx := c } :=
  { h with sequence := .inl hq }

/-- A first fault is recorded and ends the sequence (R117), outside the service; a configuration fault only before INIT is
done (R98). -/
theorem inv_withFault (h : Inv s) {code : Byte} {info : BitVec 24} (hc : code ∈ faultCodes)
    (hcfg : code ∈ ([0x01, 0x02, 0x03, 0x04] : List Byte) → s.initDone = false) (hctx : s.ctx ≠ .service)
    (he : s.ie = true ↔ s.astate = .armed) (c : Ctx) (n cb : Bank) : Inv { s with
      fault := code, faultInfo := info, seq := [], seqCtx := c, normal := n, callback := cb } :=
  { h with
    faultCode := .inr hc
    faultEnds := fun _ => rfl
    configFault := hcfg
    beforeInit := fun hd => by
      obtain ⟨hie, hast, hctx, hnear, hhist, _⟩ := h.beforeInit hd
      exact ⟨hie, hast, hctx, hnear, hhist, by simp⟩
    initOnce := fun hq => by cases hq
    serviceBusy := fun hs => absurd hs hctx
    sequence := .inl rfl
    enable := (enableAgrees_idle rfl).2 he }

/-- What an accepted dispatch has checked (R103). -/
theorem dispatchFault_none {opc : Byte} (h : dispatchFault opc s = none) :
    (opc = 0x01 → s.initDone = false) ∧ (s.initDone = false → opc = 0x01 ∨ opc = 0x09 ∨ opc = 0x0A) := by
  unfold dispatchFault at h
  split at h
  · cases h
  · split at h
    · cases h
    · cases hd : s.initDone <;> simp_all
      tauto

/-- The codes a host access can raise (R38, R53, R54, R103, R118). -/
def accessCodes : List Byte := [0x10, 0x11, 0x12, 0x13, 0x14, 0x16]

theorem rejectFault_code (r : Reject) : (rejectFault r).1 ∈ accessCodes := by
  cases r <;> simp [rejectFault, accessCodes]

theorem dispatchFault_code {opc c : Byte} {j : BitVec 24} (h : dispatchFault opc s = some (c, j)) :
    c ∈ accessCodes := by
  unfold dispatchFault at h
  split at h
  · cases h; decide
  · split at h
    · cases h; decide
    · split at h <;> cases h
      decide

theorem sequenceOf_mem {i : Instr} (hi : i.isCommand = true) (c : Config) : sequenceOf c i ∈ commandSequences c := by
  cases i <;> simp [Instr.isCommand] at hi <;> simp [sequenceOf, commandSequences]

/-- No command's sequence starts between the two halves of an enable or a disable. -/
theorem commandSequences_not_midEnable {c : Config} {q : List Instr} (hq : q ∈ commandSequences c) :
    codes q ∉ midEnable := by
  by_cases hb : c.backendSel = 0 <;> simp only [commandSequences, hb, if_true, if_false] at hq <;> revert q <;> decide

theorem serviceSequence_not_midEnable (c : Config) : codes (serviceSequence c) ∉ midEnable := by
  unfold serviceSequence; split <;> decide

/-- Only INIT loads `U_INIT` (R61). -/
theorem sequenceOf_uInit {i : Instr} {c : Config} (hi : i.isCommand = true)
    (h : codes (sequenceOf c i) = codes [.uInit]) : i = .init := by
  have h : sequenceOf c i = [.uInit] := List.map_injective_iff.2 (fun _ _ => code_injective) h
  cases i <;> simp [Instr.isCommand] at hi <;> simp [sequenceOf] at h ⊢ <;> split at h <;> cases h

/-- A command that is let through loads its sequence, in the context that issued it (R103). -/
theorem inv_loadSequence (h : Inv s) {i : Instr} (hi : i.isCommand = true) (hh : held s = false) (hf : s.fault = 0)
    (hd : dispatchFault i.code s = none) : Inv (loadSequence i.code (sequenceOf s.cfg i) s) := by
  obtain ⟨hq, hctx⟩ := held_eq_false.1 hh
  obtain ⟨honce, hearly⟩ := dispatchFault_none hd
  exact { h with
    faultEnds := fun hne => absurd hf hne
    beforeInit := fun hnot => by
      obtain ⟨hie, hast, hctx, hnear, hhist, _⟩ := h.beforeInit hnot
      refine ⟨hie, hast, hctx, hnear, hhist, ?_⟩
      rcases hearly hnot with hc | hc | hc
      · rw [show i = .init from code_injective hc]; simp [sequenceOf, codes]
      · rw [show i = .status from code_injective hc]; simp [sequenceOf, codes]
      · rw [show i = .info from code_injective hc]; simp [sequenceOf, codes]
    initOnce := fun hseq => honce (by rw [sequenceOf_uInit hi hseq]; rfl)
    serviceBusy := fun hs => absurd hs hctx
    sequence := .inr (.inl ⟨hctx, rfl, _, sequenceOf_mem hi s.cfg, List.suffix_rfl⟩)
    enable := (enableAgrees_settled (commandSequences_not_midEnable (sequenceOf_mem hi s.cfg))).2
      ((enableAgrees_idle hq).1 h.enable) }

/-- An acceptance loads the service of the mode (R121, R122). -/
theorem inv_enterService (h : Inv s) (ha : acceptEnabled s = true) : Inv (enterService s) := by
  obtain ⟨hf, hinit, _, hq, _, _⟩ := acceptEnabled_iff.1 ha
  have hne : codes (serviceSequence s.cfg) ≠ [] := by unfold serviceSequence; split <;> simp [codes]
  exact { h with
    faultEnds := fun hnot => absurd hf hnot
    beforeInit := fun hnot => absurd hinit (by simp [show s.initDone = false from hnot])
    initOnce := fun hseq => absurd hseq (by
      simp only [enterService_seq, serviceSequence]; split <;> simp [codes, Instr.code])
    serviceBusy := fun _ => hne
    sequence := .inr (.inr ⟨rfl, rfl, List.suffix_rfl⟩)
    enable := (enableAgrees_settled (serviceSequence_not_midEnable s.cfg)).2 ((enableAgrees_idle hq).1 h.enable) }

theorem inv_accept (h : Inv s) : Inv (accept s) := by
  rcases accept_cases s with he | ⟨ha, he⟩ <;> rw [he]
  · exact h
  · exact inv_enterService h ha

/-- A tick counts modulo `2^W` and can only clear NEAR; before INIT there is none (R64, R65). -/
theorem inv_tick (h : Inv s) : Inv (tick s) := by
  by_cases hr : s.run = true
  · have hdone : s.initDone = true := h.runIsInit ▸ hr
    rw [tick, if_pos hr]
    exact { h with
      counterFits := addW_lt _ _ _
      nearWindow := fun hm => by simp [tickWith, h.nearWindow hm]
      beforeInit := fun hnot => absurd hdone (by simp [show s.initDone = false from hnot]) }
  · rwa [tick, if_neg hr]

end InvUpdates

end Sys2Proof.Proofs
end

section
/-!
Each μop keeps the invariant: what is popped, what it performs, what it raises, and the response.
-/

namespace Sys2Proof.Proofs

open Sys2Proof.Machine Sys2Proof.Safety Sys2Proof.Laws

section UopKeepsInv

variable {s r t : State} {i : Instr} {q : List Byte}

theorem inv_finishUop (h : Inv r) : Inv (finishUop r) := by
  obtain ⟨_, _, e⟩ := finishUop_frame r
  rw [e]; exact { h with }

theorem fault_zero_of_seq (h : Inv s) (hq : s.seq = i.code :: q) : s.fault = 0 := by
  by_contra hf
  rw [h.faultEnds hf] at hq; cases hq

/-- Before INIT the sequencer runs only the one μop of INIT, STATUS or INFO (R103). -/
theorem head_beforeInit (h : Inv s) (hq : s.seq = i.code :: q) (hd : s.initDone = false) :
    q = [] ∧ (i = .uInit ∨ i = .uStatus ∨ i = .uInfo) := by
  obtain ⟨_, _, _, _, _, hs⟩ := h.beforeInit hd
  simp only [hq, codes, List.map, List.mem_cons, List.cons.injEq, List.not_mem_nil, or_false, reduceCtorEq,
    false_or] at hs
  rcases hs with ⟨hc, rfl⟩ | ⟨hc, rfl⟩ | ⟨hc, rfl⟩ <;> simp [code_injective hc]

/-- A μop that writes neither IE nor ASTATE leaves R88 as it was. -/
theorem enableAgrees_pop (h : Inv s) (hu : i.isUop = true) (hq : s.seq = i.code :: q)
    (hi : i ∉ [.uIe1, .uIe0, .uArmed, .uDisarmed]) : enableAgrees { s with seq := q } := by
  have he := h.enable
  rcases (sequence_cases h hq).2 with ⟨_, _, ⟨rfl, _⟩ | ⟨rfl, rfl⟩ | ⟨rfl, rfl⟩ | ⟨rfl, rfl⟩ | ⟨rfl, rfl⟩ | ⟨rfl, rfl⟩ |
    ⟨rfl, rfl⟩⟩ | ⟨_, _, _, ⟨rfl, rfl⟩ | ⟨rfl, rfl⟩ | ⟨rfl, rfl⟩⟩ | ⟨_, _, _, ⟨rfl, rfl⟩ | ⟨rfl, rfl⟩ | ⟨rfl, rfl⟩ |
    ⟨rfl, rfl⟩ | ⟨rfl, rfl⟩⟩
  case inl.inl =>
    refine (enableAgrees_idle rfl).2 ((enableAgrees_settled (s := s) ?_).1 he)
    rw [hq]
    revert hu hi
    cases i <;> decide
  all_goals simp_all [enableAgrees, codes, Instr.code]

/-- The last μop of a sequence that is outside the enabling ones finds the enable and AlarmState in agreement (R88). -/
theorem enable_of_last (h : Inv s) (hu : i.isUop = true) (hq : s.seq = [i.code])
    (hi : i ∉ [.uIe1, .uIe0, .uArmed, .uDisarmed]) : s.ie = true ↔ s.astate = .armed :=
  (enableAgrees_idle (s := { s with seq := [] }) rfl).1 (enableAgrees_pop h hu hq hi)

/-- Popping any μop but U_INIT and U_NOTIFY, whose own effect `Inv` ties to SEQ, with what it makes of IE and ASTATE. -/
theorem inv_pop (h : Inv s) (hq : s.seq = i.code :: q) (hi : i ∉ [.uInit, .uNotify]) {ie : Bool} {ast : AState}
    (hkeep : i = .uStatus ∨ i = .uInfo → ie = s.ie ∧ ast = s.astate)
    (he : enableAgrees { s with seq := q, ie := ie, astate := ast }) :
    Inv { s with seq := q, ie := ie, astate := ast } := by
  have hshape := (sequence_cases h hq).2
  simp only [List.mem_cons, List.not_mem_nil, or_false, not_or] at hi
  have hsuffix : q <:+ s.seq := hq ▸ List.suffix_cons _ _
  exact { h with
    faultEnds := fun hf => absurd (fault_zero_of_seq h hq) hf
    beforeInit := fun hd => by
      obtain ⟨hie, hast, hctx, hnear, hhist, _⟩ := h.beforeInit hd
      obtain ⟨rfl, hhead⟩ := head_beforeInit h hq hd
      obtain ⟨rfl, rfl⟩ := hkeep (hhead.resolve_left hi.1)
      exact ⟨hie, hast, hctx, hnear, hhist, by simp⟩
    initOnce := fun hnext => by
      simp only [codes, List.map, Instr.code] at hnext
      simp [hnext] at hshape
    serviceBusy := fun hctx hnil => by
      simp only at hctx hnil
      simp [hctx, hnil, hi] at hshape
    sequence := h.sequence.imp (fun hnil => by rw [hnil] at hq; cases hq)
      (Or.imp (fun ⟨h1, h2, Q, hQ, hs⟩ => ⟨h1, h2, Q, hQ, hsuffix.trans hs⟩)
        fun ⟨h1, h2, hs⟩ => ⟨h1, h2, hsuffix.trans hs⟩)
    enable := he }

/-- The last μop of a sequence ends it, in a context that is not Service. -/
theorem inv_last (h : Inv s) (hu : i.isUop = true) (hq : s.seq = [i.code])
    (hi : i ∉ [.uIe1, .uIe0, .uArmed, .uDisarmed]) {c : Ctx} (hc : c ≠ .service)
    (hearly : s.initDone = false → c = .normal) : Inv { s with seq := [], ctx := c } :=
  { h with
    faultEnds := fun _ => rfl
    beforeInit := fun hd => by
      obtain ⟨hie, hast, _, hnear, hhist, _⟩ := h.beforeInit hd
      exact ⟨hie, hast, hearly hd, hnear, hhist, by simp⟩
    initOnce := fun hnext => by cases hnext
    serviceBusy := fun hs => absurd hs hc
    sequence := .inl rfl
    enable := (enableAgrees_idle rfl).2 (enable_of_last (s := s) h hu hq hi) }

/-- A compare write of a W-bit value, after INIT, keeps NEAR at 0 without a window (R23, R72). -/
theorem inv_armCompare (h : Inv s) {v : Word} (hv : v.toNat < 2 ^ width s.cfg) (hd : s.initDone = true) :
    Inv (armCompare v s) :=
  { h with
    compareFits := hv
    nearWindow := fun hm => by
      have hm : s.cfg.missWindow = 0 := hm
      by_cases hdist : mdiffW (width s.cfg) v s.counter = 0
      · simp [armCompare, eq_of_mdiffW_zero hv h.counterFits hdist]
      · simp [armCompare, hm, hdist]
    beforeInit := fun hnot => absurd hd (by simp [show s.initDone = false from hnot]) }

/-- The setup of an accepted configuration (R108), with SEQ ended. -/
theorem inv_setUp (h : Inv s) (hq : s.seq = []) (hf : s.fault = 0) (hc : validateConfig s.cfg = none) :
    Inv (setUp s) :=
  { h with
    nearWindow := fun _ => rfl
    configFault := fun hcode => by
      rw [setUp_fault, hf] at hcode; exact absurd hcode (by decide)
    runIsInit := rfl
    initChecked := fun _ => hc
    beforeInit := fun hnot => by cases hnot
    initOnce := fun hnext => by rw [setUp_seq, hq] at hnext; cases hnext
    enable := (enableAgrees_idle (by rw [setUp_seq, hq])).2 (by simp) }

theorem initDone_of_head (h : Inv s) (hq : s.seq = i.code :: q) (hi : i ∉ [.uInit, .uStatus, .uInfo]) :
    s.initDone = true := by
  by_contra hd
  exact hi (by simpa using (head_beforeInit h hq (by simpa using hd)).2)

/-- What a μop performs, on the state it was popped from, keeps the invariant. -/
theorem inv_performs (h : Inv s) (hu : i.isUop = true) (hq : s.seq = i.code :: q)
    (hp : performs i { s with seq := q } = .ok r) : Inv r := by
  obtain ⟨_, hshape⟩ := sequence_cases h hq
  have he := h.enable
  have hplain (hi : i ∉ [.uIe1, .uIe0, .uArmed, .uDisarmed, .uInit, .uNotify]) : Inv { s with seq := q } := by
    simp only [List.mem_cons, List.not_mem_nil, or_false, not_or] at hi
    exact inv_pop h hq (by simp [hi]) (fun _ => ⟨rfl, rfl⟩) (enableAgrees_pop h hu hq (by simp [hi]))
  have hdone (hi : i ∉ [.uInit, .uStatus, .uInfo]) : s.initDone = true := initDone_of_head h hq hi
  cases i with
  | uInit =>
    obtain ⟨hctx, _, rfl⟩ : s.ctx ≠ .service ∧ s.seqCtx = s.ctx ∧ q = [] := by simpa using hshape
    simp only [performs] at hp
    split at hp
    · cases hp
    · next hc =>
      cases hp
      have hnot : s.initDone = false := h.initOnce hq
      have hf : s.fault = 0 := fault_zero_of_seq h hq
      obtain ⟨_, _, hnormal, _⟩ := h.beforeInit hnot
      exact inv_setUp (inv_last h hu hq (by decide) hctx fun _ => hnormal) rfl hf hc
  | uReadCnt | uReadCap | uClr | uQie | uQshadow | uRdcmp | uStatus => cases hp; exact { hplain (by decide) with }
  | uCapture => cases hp; exact { hplain (by decide) with captureFits := h.counterFits }
  | uArmArg => cases hp; exact inv_armCompare (hplain (by decide)) (truncW_lt _ _) (hdone (by decide))
  | uArmPer => cases hp; exact inv_armCompare (hplain (by decide)) (addW_lt _ _ _) (hdone (by decide))
  | uIe1 =>
    cases hp
    refine inv_pop h hq (by decide) (by simp) ?_
    obtain ⟨_, _, rfl⟩ : s.ctx ≠ .service ∧ s.seqCtx = s.ctx ∧ q = [0x8C] := by simpa using hshape
    simp [enableAgrees, codes, Instr.code]
  | uIe0 =>
    cases hp
    refine inv_pop h hq (by decide) (by simp) ?_
    have hrest : q = [0x86, 0x8D] ∨ q = [0x86, 0x8D, 0x8E] := by simp at hshape; tauto
    rcases hrest with rfl | rfl <;> simp [enableAgrees, codes, Instr.code]
  | uArmed =>
    cases hp
    refine inv_pop h hq (by decide) (by simp) ?_
    obtain ⟨_, _, rfl⟩ : s.ctx ≠ .service ∧ s.seqCtx = s.ctx ∧ q = [] := by simpa using hshape
    have hie : s.ie = true := by simpa [enableAgrees, codes, hq] using he
    exact (enableAgrees_idle rfl).2 (by simp [hie])
  | uDisarmed =>
    cases hp
    refine inv_pop h hq (by decide) (by simp) ?_
    have hrest : q = [] ∨ q = [0x8E] := by simp at hshape; tauto
    have hie : s.ie = false := by rcases hrest with rfl | rfl <;> simpa [enableAgrees, codes, hq, Instr.code] using he
    rcases hrest with rfl | rfl <;> simp [enableAgrees, codes, Instr.code, hie]
  | uNotify =>
    cases hp
    obtain rfl : q = [] := by simp at hshape; tauto
    exact { inv_last (c := .callback) h hu hq (by decide) (by decide) (by simp [hdone]) with
      beforeInit := fun hnot => absurd (hdone (by decide)) (by simp [show s.initDone = false from hnot]) }
  | uCbret =>
    cases hp
    obtain ⟨_, _, rfl⟩ : s.ctx ≠ .service ∧ s.seqCtx = s.ctx ∧ q = [] := by simpa using hshape
    exact inv_last h hu hq (by decide) (by decide) fun _ => rfl
  | uInfo =>
    simp only [performs] at hp
    split at hp
    · cases hp; exact { hplain (by decide) with }
    · cases hp
  | _ => cases hu

theorem validateConfig_code {c : Config} {code : Byte} {info : BitVec 24} (h : validateConfig c = some (code, info)) :
    code ∈ ([0x01, 0x02, 0x03, 0x04] : List Byte) := by
  unfold validateConfig at h
  repeat' split at h
  all_goals cases h
  all_goals decide

/-- Only `U_INIT`, by a configuration fault, and `U_INFO`, by ILLEGAL_ARG, raise (R92, R116). -/
theorem performs_error {c : Byte} {j : BitVec 24} (hp : performs i s = .error (c, j)) :
    (i = .uInit ∧ c ∈ ([0x01, 0x02, 0x03, 0x04] : List Byte)) ∨ (i = .uInfo ∧ c = 0x15) := by
  cases i with
  | uInit =>
    simp only [performs] at hp
    split at hp
    · next hc => cases hp; exact .inl ⟨rfl, validateConfig_code hc⟩
    · cases hp
  | uInfo =>
    simp only [performs] at hp
    split at hp
    · cases hp
    · cases hp; exact .inr ⟨rfl, rfl⟩
  | _ => cases hp

/-- A fault raised by the μop at the head of SEQ is recorded (R117). -/
theorem inv_uopFault (h : Inv s) (hu : i.isUop = true) (hq : s.seq = i.code :: q) {c : Byte} {j : BitVec 24}
    (hp : performs i { s with seq := q } = .error (c, j)) : Inv (raiseFault c j { s with seq := q }) := by
  obtain ⟨_, hshape⟩ := sequence_cases h hq
  have hf : s.fault = 0 := fault_zero_of_seq h hq
  rw [raiseFault, if_pos hf]
  rcases performs_error hp with ⟨rfl, hc⟩ | ⟨rfl, rfl⟩
  · obtain ⟨hctx, _, rfl⟩ : s.ctx ≠ .service ∧ s.seqCtx = s.ctx ∧ q = [] := by simpa using hshape
    have hcode : c ∈ faultCodes := List.mem_of_mem_take (i := 4) hc
    exact inv_withFault h hcode (fun _ => h.initOnce hq) hctx (enable_of_last h hu hq (by decide)) _ _ _
  · obtain ⟨hctx, _, rfl⟩ : s.ctx ≠ .service ∧ s.seqCtx = s.ctx ∧ q = [] := by simpa using hshape
    exact inv_withFault h (by decide) (fun hc => absurd hc (by decide)) hctx (enable_of_last h hu hq (by decide)) _ _ _

/-- A sequencer step on the head of SEQ keeps the invariant (R105). -/
theorem inv_execUop (h : Inv s) (hu : i.isUop = true) (hq : s.seq = i.code :: q)
    (he : exec i { s with seq := q } = .next t) : Inv t := by
  have hav : uopAvailable s.cfg i = true := (sequence_cases h hq).1
  rcases exec_uop_cases hu he with ⟨hno, _⟩ | ⟨_, r, hp, rfl⟩ | ⟨_, c, j, hp, rfl⟩
  · exact absurd hav (by simp [show uopAvailable s.cfg i = false from hno])
  · exact inv_finishUop (inv_performs h hu hq hp)
  · exact inv_uopFault h hu hq hp

end UopKeepsInv

end Sys2Proof.Proofs
end

section
/-!
The host's accesses, the step and RESET: the invariant from the first state on.
-/

namespace Sys2Proof.Proofs

open Sys2Proof.Machine Sys2Proof.Safety Sys2Proof.Laws

section StepKeepsInv

variable {s t : State}

/-- A fault that no configuration check raises, on an access that is not held (R38, R103). -/
theorem inv_hostFault (h : Inv s) (hh : held s = false) {c : Byte} (j : BitVec 24) (hc : c ∈ accessCodes) :
    Inv (recordFault c j (enterIssue s)) := by
  obtain ⟨hq, hctx⟩ := held_eq_false.1 hh
  have hcode : c ∈ faultCodes ∧ c ∉ ([0x01, 0x02, 0x03, 0x04] : List Byte) := by revert c; decide
  exact inv_withFault h hcode.1 (fun hcfg => absurd hcfg hcode.2) hctx ((enableAgrees_idle hq).1 h.enable) _ _ _

theorem inv_answerFault (h : Inv s) (hh : held s = false) : Inv (answerFault s) := by
  obtain ⟨hq, _⟩ := held_eq_false.1 hh
  exact { inv_seqCtx h hq s.ctx with }

theorem inv_execCommand (h : Inv s) (hh : held s = false) {i : Instr} (hi : i.isCommand = true)
    (he : exec i s = .next t) : Inv t := by
  rcases exec_command_cases hi hh he with ⟨_, rfl⟩ | ⟨_, c, j, hd, rfl⟩ | ⟨hf, hd, rfl⟩
  · exact inv_answerFault h hh
  · exact inv_hostFault h hh j (dispatchFault_code hd)
  · exact inv_loadSequence h hi hh hf hd

theorem inv_rejectCommand (h : Inv s) (hh : held s = false) (r : Reject) : Inv (rejectCommand r s) := by
  unfold rejectCommand
  split
  · exact inv_answerFault h hh
  · next hf =>
    rw [raiseFault, if_pos (by simpa using hf)]
    exact inv_hostFault h hh _ (rejectFault_code r)

theorem inv_badAccess (h : Inv s) (hh : held s = false) (j : BitVec 24) : Inv (badAccess j s) := by
  unfold badAccess
  split
  · next hf =>
    rw [raiseFault, if_pos (by simpa using hf)]
    exact inv_hostFault h hh j (by decide)
  · exact h

theorem inv_resetWith (c : Config) (d : Draws) (q : List Move) : Inv (State.resetWith c d q) where
  counterFits := truncW_lt _ _
  compareFits := truncW_lt _ _
  captureFits := truncW_lt _ _
  nearWindow _ := rfl
  faultCode := .inl ⟨rfl, rfl⟩
  faultEnds _ := rfl
  configFault _ := rfl
  runIsInit := rfl
  initChecked hd := by cases hd
  beforeInit _ := ⟨rfl, rfl, rfl, rfl, rfl, by simp [State.resetWith]⟩
  initOnce _ := rfl
  serviceBusy hs := by cases hs
  sequence := .inl rfl
  enable := (enableAgrees_idle rfl).2 (by simp [State.resetWith])

theorem matchBudget_resetWith (c : Config) (d : Draws) (q : List Move) : MatchBudget (State.resetWith c d q) where
  covered hd := by cases hd
  latchHeld hs := by cases hs

end StepKeepsInv

/-- Settles O18: what a step can be, each kind keeping the invariant. -/
theorem stepKeepsInvariant : Obligations.StepKeepsInvariant := by
  intro s t h hstep
  obtain ⟨x, n, hcases⟩ := step_inversion hstep
  have hu : Inv { s with schedule := x, draws := n } := { h with }
  rcases hcases with ⟨_, rfl⟩ | ⟨_, ⟨_, rfl⟩ | rfl | ⟨i, q, hi, hq, he⟩ | ⟨hh, _, _, i, _, _, _, hi, he⟩ |
    ⟨hh, _, r, _, rfl⟩ | ⟨hh, ⟨v, rfl⟩ | ⟨r, rfl⟩ | ⟨j, rfl⟩⟩⟩
  · exact inv_tick hu
  · exact inv_accept hu
  · exact hu
  · exact inv_execUop hu hi hq he
  · exact inv_execCommand hu hh hi he
  · exact inv_rejectCommand hu hh r
  · exact { hu with }
  · exact { hu with }
  · exact inv_badAccess hu hh j

/-- Settles O17: field by field; before INIT nothing is owed. -/
theorem resetMeetsInvariants : Obligations.ResetMeetsInvariants :=
  ⟨fun c d q => ⟨inv_resetWith c d q, matchBudget_resetWith c d q⟩, inv_resetWith _ _ _, matchBudget_resetWith _ _ _⟩

end Sys2Proof.Proofs
end

section
/-!
The writers of the registers (spec/10_state.md R18 to R28), read off the kinds of step: a tick, a μop, and the rest.
-/

namespace Sys2Proof.Proofs

open Sys2Proof.Machine Sys2Proof.Laws

section Writers

variable {s t : State}

/-- The counter's move: nothing with `RUN = 0`, else the tick of R65. -/
theorem tick_cases (s : State) : tick s = s ∨ (s.run = true ∧ ∃ b, tick s = tickWith b (countDraw s)) := by
  unfold tick; split
  · exact .inr ⟨by assumption, _, rfl⟩
  · exact .inl rfl

@[simp] theorem arriving_countDraw : arriving (countDraw s) = arriving s := rfl

theorem arriving_iff : arriving s = true ↔ addW (width s.cfg) s.counter 1 = s.compare := by simp [arriving]

/-- A latch by a tick is an arrival (R65). -/
theorem tick_pending_rises (hs : s.pending = false) (ht : (tick s).pending = true) :
    s.run = true ∧ (tick s).counter = addW (width s.cfg) s.counter 1 ∧ (tick s).counter = s.compare := by
  rcases tick_cases s with he | ⟨hr, b, he⟩ <;> rw [he] at ht ⊢
  · rw [hs] at ht; cases ht
  · have ha : arriving s = true := by
      simp only [tickWith, countDraw_pending, hs, Bool.false_or, Bool.and_eq_true] at ht
      exact ht.1
    exact ⟨hr, rfl, arriving_iff.1 ha⟩

theorem tick_keeps_pending (hs : s.pending = true) : (tick s).pending = true := by
  rcases tick_cases s with he | ⟨_, b, he⟩ <;> simp [he, tickWith, hs]

/-- A tick changes NEAR only when it arrives, and then clears it (R65). -/
theorem tick_near_changes (hn : (tick s).near ≠ s.near) :
    s.run = true ∧ (tick s).counter = s.compare ∧ (tick s).near = false := by
  rcases tick_cases s with he | ⟨hr, b, he⟩ <;> rw [he] at hn ⊢
  · exact absurd rfl hn
  · have ha : arriving s = true := by
      by_contra ha
      simp [tickWith, ha] at hn
    exact ⟨hr, arriving_iff.1 ha, by simp [tickWith, ha]⟩

/-- The two μops that leave a context, and the context each enters (R112, R123). -/
theorem uop_ctx {i : Instr} (hu : i.isUop = true) (h : exec i s = .next t) (hc : t.ctx ≠ s.ctx) :
    (i = .uNotify ∧ t.ctx = .callback) ∨ (i = .uCbret ∧ t.ctx = .normal) := by
  obtain ⟨_, _, _, _, _, _, _, hwriter, _⟩ := uop_frame hu h
  rcases exec_uop_cases hu h with ⟨_, rfl⟩ | ⟨_, r, hp, rfl⟩ | ⟨_, c, j, _, rfl⟩
  · exact absurd (raiseFault_ctx _ _ _) hc
  · rcases hwriter hc with rfl | rfl <;> cases hp <;> simp
  · exact absurd (raiseFault_ctx _ _ _) hc

theorem accept_ctx (hc : (accept s).ctx ≠ s.ctx) : acceptEnabled s = true ∧ (accept s).ctx = .service := by
  rcases accept_cases s with he | ⟨ha, he⟩ <;> rw [he] at hc ⊢
  · exact absurd rfl hc
  · exact ⟨ha, rfl⟩

theorem command_ctx {i : Instr} (hi : i.isCommand = true) (hh : held s = false) (h : exec i s = .next t) :
    t.ctx = s.ctx := by
  obtain ⟨_, _, _, _, _, _, _, _, _, rfl⟩ := command_frame hi hh h
  rfl

theorem head_eq {i j : Instr} {q : List Byte} (hq : s.seq = i.code :: q) (hi : i = j) : s.seq = j.code :: q := hi ▸ hq

/-- A context is entered by an enabled acceptance, by U_NOTIFY and by U_CBRET, and by no other step (R28). -/
theorem step_ctx (h : step s = .next t) (hc : t.ctx ≠ s.ctx) :
    ((takeMove s).1 = .accept ∧ acceptEnabled s = true ∧ t.ctx = .service) ∨
    ∃ q, (s.seq = Instr.uNotify.code :: q ∧ t.ctx = .callback) ∨ (s.seq = Instr.uCbret.code :: q ∧ t.ctx = .normal) := by
  obtain ⟨x, n, hcases⟩ := step_inversion h
  rcases hcases with ⟨_, rfl⟩ | ⟨_, ⟨hm, rfl⟩ | rfl | ⟨i, q, hi, hq, he⟩ | ⟨hh, _, _, i, _, _, _, hi, he⟩ |
    ⟨_, _, r, _, rfl⟩ | ⟨_, ⟨v, rfl⟩ | ⟨r, rfl⟩ | ⟨j, rfl⟩⟩⟩
  · exact absurd (tick_ctx _) hc
  · exact .inl ⟨hm, accept_ctx hc⟩
  · exact absurd rfl hc
  · exact .inr ⟨q, (uop_ctx hi he hc).imp (And.imp_left (head_eq hq)) (And.imp_left (head_eq hq))⟩
  · exact absurd (command_ctx (s := { s with schedule := x, draws := n }) hi hh he) hc
  · exact absurd (rejectCommand_ctx _ _) hc
  · exact absurd rfl hc
  · exact absurd rfl hc
  · exact absurd (badAccess_ctx _ _) hc

end Writers

/-- Settles O24: of the kinds of step only a tick writes COUNTER. -/
theorem onlyTickWritesCounter : Obligations.OnlyTickWritesCounter := by
  intro s t h
  rcases step_frames h with ⟨hm, x, n, rfl⟩ | ⟨i, q, x, n, hu, _, he⟩ | ⟨_, _, _, _, _, _, _, _, _, _, _, _, _, rfl⟩
  · rcases tick_cases { s with schedule := x, draws := n } with he | ⟨hr, b, he⟩ <;> rw [he]
    · exact .inl rfl
    · exact .inr ⟨hm, hr, rfl⟩
  · obtain ⟨⟨_, hcounter, _⟩, _⟩ := uop_frame hu he
    exact .inl hcounter
  · exact .inl rfl

/-- Settles O25: a tick latches by arriving, a μop by a compare write equal to the count, and only U_CLR and U_INIT clear. -/
theorem pendingRisesByMatchFallsByClear : Obligations.PendingRisesByMatchFallsByClear := by
  intro s t h
  rcases step_frames h with ⟨hm, x, n, rfl⟩ | ⟨i, q, x, n, hu, hq, he⟩ | ⟨_, _, _, _, _, _, _, _, _, _, _, _, _, rfl⟩
  · refine ⟨fun hs ht => ?_, fun hs ht => ?_⟩
    · obtain ⟨hr, hcount, harrives⟩ := tick_pending_rises (s := { s with schedule := x, draws := n }) hs ht
      exact .inl ⟨hm, harrives, hcount, hr⟩
    · rw [tick_keeps_pending (s := { s with schedule := x, draws := n }) hs] at ht; cases ht
  · obtain ⟨_, _, _, _, _, _, _, _, hpending, _⟩ := uop_frame hu he
    refine ⟨fun hs ht => ?_, fun hs ht => ?_⟩
    · have hw := hpending (by simp [hs, ht])
      simp only [ht, true_and, Bool.true_eq_false, false_and, or_false] at hw
      obtain ⟨heq, hcmp, hi⟩ := hw
      exact .inr ⟨heq, hcmp, q, hi.imp (head_eq hq) (head_eq hq)⟩
    · have hw := hpending (by simp [hs, ht])
      simp only [ht, true_and, Bool.false_eq_true, false_and, false_or] at hw
      exact ⟨q, hw.symm.imp (head_eq hq) (head_eq hq)⟩
  · exact ⟨fun hs ht => by simp [hs] at ht, fun hs ht => by simp [hs] at ht⟩

/-- Settles O26: a tick writes only NEAR of these registers, a μop those `uop_frame` gives it, and the rest only CTX. -/
theorem alarmRegisterWriters : Obligations.AlarmRegisterWriters := by
  intro s t h
  have hctx := step_ctx h
  rcases step_frames h with ⟨hm, x, n, rfl⟩ | ⟨i, q, x, n, hu, hq, he⟩ | ⟨_, _, _, _, _, _, _, _, _, _, _, _, _, rfl⟩
  · exact ⟨by simp, by simp, by simp, by simp, by simp, fun hn => .inl ⟨hm, tick_near_changes hn⟩, hctx⟩
  · obtain ⟨_, hcompare, hnear, hie, hastate, hinit, hcapture, _⟩ := uop_frame hu he
    exact ⟨fun hne => ⟨q, (hcompare hne).imp (head_eq hq) (head_eq hq)⟩,
      fun hne => ⟨q, (hie hne).imp (head_eq hq) (Or.imp (head_eq hq) (head_eq hq))⟩,
      fun hne => ⟨q, (hastate hne).imp (head_eq hq) (Or.imp (head_eq hq) (head_eq hq))⟩,
      fun hne => ⟨q, head_eq hq (hinit hne)⟩, fun hne => ⟨q, head_eq hq (hcapture hne)⟩,
      fun hne => .inr ⟨q, (hnear hne).imp (head_eq hq) (Or.imp (head_eq hq) (head_eq hq))⟩, hctx⟩
  · exact ⟨by simp, by simp, by simp, by simp, by simp, by simp, hctx⟩

end Sys2Proof.Proofs
end

section
/-!
The banks keep the contexts apart (R29, R30, R106, R112, R117, R124): what responds, responds in the bank of one context.
-/

namespace Sys2Proof.Proofs

open Sys2Proof.Machine Sys2Proof.Safety Sys2Proof.Laws

/-- From `s` to `t` no bank changes but that of the context `c`. -/
def WritesOnlyBankOf (c : Ctx) (s t : State) : Prop :=
  (c ≠ .normal → t.normal = s.normal) ∧ (c ≠ .callback → t.callback = s.callback)

section Banks

variable {s t : State}

theorem banks_kept (c : Ctx) (hn : t.normal = s.normal) (hc : t.callback = s.callback) : WritesOnlyBankOf c s t :=
  ⟨fun _ => hn, fun _ => hc⟩

theorem writeResponse_bank (c : Ctx) (v st : Word) (s : State) : WritesOnlyBankOf c s (writeResponse c v st s) :=
  ⟨fun h => by simp [writeResponse, h], fun h => by simp [writeResponse, h]⟩

theorem finishUop_bank (s : State) : WritesOnlyBankOf s.seqCtx s (finishUop s) := by
  unfold finishUop; split
  · exact writeResponse_bank _ _ _ s
  · exact banks_kept _ rfl rfl

theorem raiseFault_bank (c : Byte) (j : BitVec 24) (s : State) : WritesOnlyBankOf s.seqCtx s (raiseFault c j s) := by
  unfold raiseFault; split
  · exact writeResponse_bank _ _ _ s
  · exact banks_kept _ rfl rfl

theorem answerFault_bank (s : State) : WritesOnlyBankOf s.ctx s (answerFault s) := writeResponse_bank _ _ _ (enterIssue s)

/-- No μop performs a write of a bank or of `SEQ_CTX`; the banks are its response's. -/
theorem performs_banks {i : Instr} {r : State} (hp : performs i s = .ok r) :
    r.normal = s.normal ∧ r.callback = s.callback ∧ r.seqCtx = s.seqCtx := by
  cases i with
  | uInit =>
    simp only [performs] at hp
    split at hp
    · cases hp
    · cases hp; exact ⟨rfl, rfl, rfl⟩
  | uInfo =>
    simp only [performs] at hp
    split at hp
    · cases hp; exact ⟨rfl, rfl, rfl⟩
    · cases hp
  | _ => cases hp; exact ⟨rfl, rfl, rfl⟩

/-- A μop writes the bank of the context that started its sequence (R106, R117). -/
theorem uop_bank {i : Instr} (hi : i.isUop = true) (h : exec i s = .next t) : WritesOnlyBankOf s.seqCtx s t := by
  rcases exec_uop_cases hi h with ⟨_, rfl⟩ | ⟨_, r, hp, rfl⟩ | ⟨_, c, j, _, rfl⟩
  · exact raiseFault_bank _ _ s
  · obtain ⟨hn, hc, hctx⟩ := performs_banks hp
    have hbank := finishUop_bank r
    rwa [WritesOnlyBankOf, hn, hc, hctx] at hbank
  · exact raiseFault_bank _ _ s

/-- A command writes the bank of its own context (R103). -/
theorem command_bank {i : Instr} (hi : i.isCommand = true) (hh : held s = false) (h : exec i s = .next t) :
    WritesOnlyBankOf s.ctx s t := by
  rcases exec_command_cases hi hh h with ⟨_, rfl⟩ | ⟨_, c, j, _, rfl⟩ | ⟨_, _, rfl⟩
  · exact answerFault_bank s
  · exact writeResponse_bank _ _ _ (enterIssue s)
  · exact banks_kept _ rfl rfl

theorem rejectCommand_bank (r : Reject) (s : State) : WritesOnlyBankOf s.ctx s (rejectCommand r s) := by
  unfold rejectCommand; split
  · exact answerFault_bank s
  · exact raiseFault_bank _ _ (enterIssue s)

theorem badAccess_bank (j : BitVec 24) (s : State) : WritesOnlyBankOf s.ctx s (badAccess j s) := by
  unfold badAccess; split
  · exact raiseFault_bank _ _ (enterIssue s)
  · exact banks_kept _ rfl rfl

/-- A write of ARG that is not held writes the bank of its context (R40, R43). -/
theorem writeArg_bank (hh : held s = false) (v : Word) : WritesOnlyBankOf s.ctx s (writeArg v s) := by
  have hctx := (held_eq_false.1 hh).2
  cases hc : s.ctx with
  | normal => exact ⟨fun h => absurd rfl h, fun _ => by simp [writeArg, hc]⟩
  | callback => exact ⟨fun _ => by simp [writeArg, hc], fun h => absurd rfl h⟩
  | service => exact absurd hc hctx

/-- A sequence runs in the context that started it. -/
theorem seqCtx_of_running (h : Inv s) (hq : s.seq ≠ []) : s.seqCtx = s.ctx := by
  rcases h.sequence with hnil | ⟨_, hctx, _⟩ | ⟨hctx, hseq, _⟩
  · exact absurd hnil hq
  · exact hctx
  · rw [hctx, hseq]

/-- Every step writes at most the bank of the context it is taken in. -/
theorem step_bank (hinv : Inv s) (h : step s = .next t) : WritesOnlyBankOf s.ctx s t := by
  obtain ⟨x, n, hcases⟩ := step_inversion h
  rcases hcases with ⟨_, rfl⟩ | ⟨_, ⟨_, rfl⟩ | rfl | ⟨i, q, hi, hq, he⟩ | ⟨hh, _, _, i, _, _, _, hi, he⟩ |
    ⟨_, _, r, _, rfl⟩ | ⟨hh, ⟨v, rfl⟩ | ⟨r, rfl⟩ | ⟨j, rfl⟩⟩⟩
  · exact banks_kept _ (tick_normal _) (tick_callback _)
  · exact banks_kept _ (accept_normal _) (accept_callback _)
  · exact banks_kept _ rfl rfl
  · have hbank := uop_bank hi he
    rwa [show s.seqCtx = s.ctx from seqCtx_of_running hinv (by simp [hq])] at hbank
  · exact command_bank (s := { s with schedule := x, draws := n }) hi hh he
  · exact rejectCommand_bank r { s with schedule := x, draws := n }
  · exact writeArg_bank (s := { s with schedule := x, draws := n }) hh v
  · exact banks_kept _ rfl rfl
  · exact badAccess_bank j { s with schedule := x, draws := n }

end Banks

/-- Settles O27: a step writes at most the bank of the context it is taken in. -/
theorem banksKeepContextsApart : Obligations.BanksKeepContextsApart := by
  intro s t hinv h
  obtain ⟨hnormal, hcallback⟩ := step_bank hinv h
  exact ⟨hnormal, fun hctx => hcallback (by simp [hctx])⟩

end Sys2Proof.Proofs
end

section
/-!
What the machine does not read: the history (R33), the interrupt line (R9) and the premise `SEQ_TICK_BOUND` (R150). Changing
them before a step and after it is the same, operation by operation.
-/

namespace Sys2Proof.Proofs

open Sys2Proof.Machine Sys2Proof.Laws

/-- The state with an older history before its own, and another interrupt line and tick bound. -/
def relabel (h : List Event) (n : Nat) (b : Option Nat) (s : State) : State :=
  { s with cfg := { s.cfg with irqLine := n, seqTickBound := b }, hist := h ++ s.hist }

/-- An answer with its next state changed. -/
def mapNext (f : State → State) : Out → Out
  | .next s => .next (f s)
  | .fault e => .fault e
  | .refused e => .refused e

section Relabel

variable (h : List Event) (n : Nat) (b : Option Nat) (s : State)

theorem takeMove_relabel : takeMove (relabel h n b s) = ((takeMove s).1, relabel h n b (takeMove s).2) := by
  cases hs : s.schedule <;> simp [takeMove, relabel, hs]

/-- An event added at the end is added there whatever stands before. -/
theorem append_event (p : Prop) [Decidable p] (old new l : List Event) :
    (if p then (old ++ new) ++ l else old ++ new) = old ++ (if p then new ++ l else new) := by
  split <;> simp

theorem tickWith_relabel (l : Bool) : tickWith l (relabel h n b s) = relabel h n b (tickWith l s) :=
  congrArg (fun e => { relabel h n b (tickWith l s) with hist := e }) (append_event (arriving s = true) h s.hist _)

theorem armCompare_relabel (v : Word) : armCompare v (relabel h n b s) = relabel h n b (armCompare v s) :=
  congrArg (fun e => { relabel h n b (armCompare v s) with hist := e })
    (append_event (v = s.counter ∧ s.cfg.pWriteEqMatch = true) h s.hist _)

theorem tick_relabel : tick (relabel h n b s) = relabel h n b (tick s) := by
  cases hr : s.run with
  | false => simp [tick, hr, show (relabel h n b s).run = false from hr]
  | true =>
    simp only [tick, hr, show (relabel h n b s).run = true from hr, if_true]
    exact tickWith_relabel h n b (countDraw s) _

/-! In the operations that follow the condition reads none of the three, and both branches write none. -/

theorem accept_relabel : accept (relabel h n b s) = relabel h n b (accept s) := by
  rw [accept, accept, apply_ite (relabel h n b)]; rfl

theorem finishUop_relabel : finishUop (relabel h n b s) = relabel h n b (finishUop s) := by
  rw [finishUop, finishUop, apply_ite (relabel h n b)]; rfl

theorem raiseFault_relabel (c : Byte) (j : BitVec 24) :
    raiseFault c j (relabel h n b s) = relabel h n b (raiseFault c j s) := by
  rw [raiseFault, raiseFault, apply_ite (relabel h n b)]; rfl

theorem performs_relabel (i : Instr) :
    performs i (relabel h n b s) = (performs i s).map (relabel h n b) := by
  cases i with
  | uInit =>
    have hv : validateConfig (relabel h n b s).cfg = validateConfig s.cfg := rfl
    simp only [performs, hv]
    cases validateConfig s.cfg <;> rfl
  | uInfo =>
    have hv : infoItem (relabel h n b s).cfg (relabel h n b s).seqArg = infoItem s.cfg s.seqArg := rfl
    simp only [performs, hv]
    cases infoItem s.cfg s.seqArg <;> rfl
  | uArmArg => exact congrArg Except.ok (armCompare_relabel h n b s (deadline s))
  | uArmPer => exact congrArg Except.ok (armCompare_relabel h n b s (addW (width s.cfg) s.compare s.cfg.period))
  | uNotify => simp [performs, enterCallback, relabel, Except.map]
  | _ => rfl

theorem issue_relabel (opc : Byte) (q : List Instr) :
    issue opc q (relabel h n b s) = mapNext (relabel h n b) (issue opc q s) := by
  cases hh : held s with
  | true => rw [issue_held hh, issue_held (s := relabel h n b s) hh]; rfl
  | false =>
    by_cases hf : s.fault = 0
    · have hd : dispatchFault opc (relabel h n b s) = dispatchFault opc s := rfl
      rw [issue_ready hh hf, issue_ready (s := relabel h n b s) hh hf, hd]
      cases dispatchFault opc s with
      | none => rfl
      | some f => exact congrArg Host.Outcome.next (raiseFault_relabel h n b (enterIssue s) f.1 f.2)
    · rw [issue_faulted hh hf, issue_faulted (s := relabel h n b s) hh hf]; rfl

theorem exec_relabel (i : Instr) : exec i (relabel h n b s) = mapNext (relabel h n b) (exec i s) := by
  cases hi : i.isCommand with
  | true => rw [exec_command hi, exec_command hi]; exact issue_relabel h n b s i.code (sequenceOf s.cfg i)
  | false =>
    have hu : i.isUop = true := by simp [Instr.isUop, hi]
    have hav : uopAvailable (relabel h n b s).cfg i = uopAvailable s.cfg i := by cases i <;> rfl
    rw [exec_uop hu, exec_uop hu]
    unfold runUop
    rw [hav, performs_relabel]
    split
    · rw [raiseFault_relabel]; rfl
    · cases performs i s with
      | ok r => exact congrArg Host.Outcome.next (finishUop_relabel h n b r)
      | error f => exact congrArg Host.Outcome.next (raiseFault_relabel h n b s f.1 f.2)

theorem sequencerStep_relabel : sequencerStep (relabel h n b s) = mapNext (relabel h n b) (sequencerStep s) := by
  have hseq : (relabel h n b s).seq = s.seq := rfl
  unfold sequencerStep
  rw [hseq]
  cases s.seq with
  | nil => rfl
  | cons c q =>
    cases hd : decodeUop c with
    | ok i => simp only [hd]; exact exec_relabel h n b { s with seq := q } i
    | error r => simp only [hd]; rfl

theorem rejectCommand_relabel (r : Reject) : rejectCommand r (relabel h n b s) = relabel h n b (rejectCommand r s) := by
  have hraise := raiseFault_relabel h n b (enterIssue s) (rejectFault r).1 (rejectFault r).2
  rw [rejectCommand, rejectCommand, apply_ite (relabel h n b), ← hraise]
  rfl

theorem badAccess_relabel (j : BitVec 24) : badAccess j (relabel h n b s) = relabel h n b (badAccess j s) := by
  have hraise := raiseFault_relabel h n b (enterIssue s) 0x16 j
  rw [badAccess, badAccess, apply_ite (relabel h n b), ← hraise]
  rfl

theorem hostAccess_relabel (a : Access) :
    hostAccess a (relabel h n b s) = mapNext (relabel h n b) (hostAccess a s) := by
  have hp : portAction (relabel h n b s).cfg a = portAction s.cfg a := rfl
  unfold hostAccess
  rw [hp]
  cases portAction s.cfg a with
  | command w =>
    cases hd : decodeCmd w with
    | ok i => simp only [hd]; exact exec_relabel h n b s i
    | error r => simp only [hd]; exact congrArg Host.Outcome.next (rejectCommand_relabel h n b s r)
  | bad j => exact congrArg Host.Outcome.next (badAccess_relabel h n b s j)
  | readReg r => cases r <;> rfl
  | _ => rfl

theorem act_relabel (m : Move) : act m (relabel h n b s) = mapNext (relabel h n b) (act m s) := by
  cases m with
  | tick => exact congrArg Host.Outcome.next (tick_relabel h n b s)
  | accept => exact congrArg Host.Outcome.next (accept_relabel h n b s)
  | sequencer => exact sequencerStep_relabel h n b s
  | host a =>
    cases hh : held s with
    | true =>
      rw [act_host_held hh, act_host_held (s := relabel h n b s) hh]
      exact sequencerStep_relabel h n b { s with schedule := .host a :: s.schedule }
    | false =>
      rw [act_host_free hh, act_host_free (s := relabel h n b s) hh]
      exact hostAccess_relabel h n b s a

theorem step_relabel : step (relabel h n b s) = mapNext (relabel h n b) (step s) := by
  rw [step, takeMove_relabel]
  exact act_relabel h n b _ _

end Relabel

theorem step_keeps_cfg {s t : State} (h : step s = .next t) : t.cfg = s.cfg := by
  rcases step_frames h with ⟨_, _, _, rfl⟩ | ⟨i, q, x, n, hu, _, he⟩ | ⟨_, _, _, _, _, _, _, _, _, _, _, _, _, rfl⟩
  · exact tick_cfg _
  · obtain ⟨⟨hcfg, _⟩, _⟩ := uop_frame hu he
    exact hcfg
  · rfl

theorem tick_hist_grows (s : State) : ∃ l, (tick s).hist = s.hist ++ l := by
  rcases tick_cases s with he | ⟨_, l, he⟩ <;> rw [he]
  · exact ⟨[], (List.append_nil _).symm⟩
  · simp only [tickWith]
    split
    · exact ⟨_, rfl⟩
    · exact ⟨[], (List.append_nil _).symm⟩

/-- R33: events are only added at the end. -/
theorem step_hist_grows {s t : State} (h : step s = .next t) : ∃ l, t.hist = s.hist ++ l := by
  rcases step_frames h with ⟨_, x, n, rfl⟩ | ⟨i, q, x, n, hu, _, he⟩ | ⟨_, _, _, _, _, _, _, _, _, _, _, _, _, rfl⟩
  · exact tick_hist_grows { s with schedule := x, draws := n }
  · obtain ⟨_, _, _, _, _, _, _, _, _, hhist⟩ := uop_frame hu he
    exact hhist
  · exact ⟨[], (List.append_nil _).symm⟩

/-- Settles O28: a step commutes with an older history put before the state's own. -/
theorem historyGrowsWithoutEffect : Obligations.HistoryGrowsWithoutEffect := by
  intro s t hstep
  refine ⟨step_hist_grows hstep, fun h => ?_⟩
  have hnext : relabel h s.cfg.irqLine s.cfg.seqTickBound t = { t with hist := h ++ t.hist } := by
    rw [← step_keeps_cfg hstep]; rfl
  have hrel := step_relabel h s.cfg.irqLine s.cfg.seqTickBound s
  rw [hstep, mapNext, hnext] at hrel
  exact hrel

/-- Settles O29: no step writes the parameters, and it commutes with a change of the two that only claims read. -/
theorem parametersFixedAndClaimOnesUnread : Obligations.ParametersFixedAndClaimOnesUnread := by
  intro s t n b hstep
  have hrel := step_relabel [] n b s
  rw [hstep] at hrel
  exact ⟨step_keeps_cfg hstep, hrel⟩

end Sys2Proof.Proofs
end

section
/-!
The port window (spec/20_memory.md R35 to R44): a host access that is held, a write of CMD, and the accesses to ARG, RVAL
and RSTAT, which use the bank of CTX.
-/

namespace Sys2Proof.Proofs

open Sys2Proof.Machine Sys2Proof.Laws

section PortAccess

variable {s : State} {rest : List Move}

/-- A scheduled access that is not held is the next step. -/
theorem step_host {a : Access} (h : s.schedule = .host a :: rest) (hh : held s = false) :
    step s = hostAccess a { s with schedule := rest } := by
  have hh' : held { s with schedule := rest } = false := hh
  rw [step_of_schedule h, act_host_free hh']

/-- While BUSY the head of SEQ runs in place of the host's access, which stays scheduled (R43). -/
theorem step_host_busy {a : Access} {i : Instr} {c : Byte} {q : List Byte} (h : s.schedule = .host a :: rest)
    (hq : s.seq = c :: q) (hd : decodeUop c = .ok i) : step s = exec i { s with seq := q } := by
  have hh : held { s with schedule := rest } = true := by simp [held, busy, hq]
  rw [step_of_schedule h, act_host_held hh, ← h]
  simp only [sequencerStep, hq, hd]

/-- The window offset of a port register (R36). -/
def offsetOf : PortReg → Nat
  | .arg => 4
  | .rval => 8
  | .rstat => 12

theorem portAction_readReg (c : Config) (r : PortReg) : portAction c (.read (c.base + offsetOf r) 4) = .readReg r := by
  cases r <;> simp [portAction_read, offsetOf]

/-- A 32-bit read of a port register, not held (R40, R41). -/
theorem step_readReg (r : PortReg) (h : s.schedule = .host (.read (s.cfg.base + offsetOf r) 4) :: rest)
    (hh : held s = false) : step s = .next (readPort r { s with schedule := rest }) := by
  rw [step_host h hh]
  exact hostAccess_readReg (s := { s with schedule := rest }) (portAction_readReg s.cfg r)

/-- A 32-bit write of ARG, not held (R40). -/
theorem step_writeArg {v : Word} (h : s.schedule = .host (.write (s.cfg.base + 4) (wordBytes v)) :: rest)
    (hh : held s = false) : step s = .next (writeArg v { s with schedule := rest }) := by
  rw [step_host h hh]
  exact hostAccess_writeArg (s := { s with schedule := rest }) (portAction_arg s.cfg v)

theorem bankOf_eq_ite (s : State) (c : Ctx) : bankOf s c = if c = .callback then s.callback else s.normal := by
  cases c <;> rfl

/-- The window shows a register least significant byte first (R37). -/
theorem windowByte_offsetOf (s : State) (r : PortReg) {j : Nat} (hj : j < 4) :
    windowByte s (offsetOf r + j) = some ((portValue r s).extractLsb' (8 * j) 8) := by
  cases r with
  | arg =>
    change windowByte s (4 + j) = _
    rw [windowByte, if_neg (by omega), if_pos (by omega), Nat.add_sub_cancel_left]
  | rval =>
    change windowByte s (8 + j) = _
    rw [windowByte, if_neg (by omega), if_neg (by omega), if_pos (by omega), Nat.add_sub_cancel_left]
  | rstat =>
    change windowByte s (12 + j) = _
    rw [windowByte, if_neg (by omega), if_neg (by omega), if_neg (by omega), Nat.add_sub_cancel_left]

end PortAccess

section Args

variable {s t : State}

/-- From `s` to `t` neither bank's ARG changes. -/
def KeepsArgs (s t : State) : Prop := t.normal.arg = s.normal.arg ∧ t.callback.arg = s.callback.arg

theorem writeResponse_keepsArgs (c : Ctx) (v st : Word) (s : State) : KeepsArgs s (writeResponse c v st s) := by
  cases c <;> exact ⟨rfl, rfl⟩

theorem raiseFault_keepsArgs (c : Byte) (j : BitVec 24) (s : State) : KeepsArgs s (raiseFault c j s) := by
  unfold raiseFault; split
  · exact writeResponse_keepsArgs _ _ _ s
  · exact ⟨rfl, rfl⟩

theorem finishUop_keepsArgs (s : State) : KeepsArgs s (finishUop s) := by
  unfold finishUop; split
  · exact writeResponse_keepsArgs _ _ _ s
  · exact ⟨rfl, rfl⟩

theorem uop_keepsArgs {i : Instr} (hi : i.isUop = true) (h : exec i s = .next t) : KeepsArgs s t := by
  rcases exec_uop_cases hi h with ⟨_, rfl⟩ | ⟨_, r, hp, rfl⟩ | ⟨_, c, j, _, rfl⟩
  · exact raiseFault_keepsArgs _ _ s
  · obtain ⟨hn, hc, _⟩ := performs_banks hp
    have hargs := finishUop_keepsArgs r
    rwa [KeepsArgs, hn, hc] at hargs
  · exact raiseFault_keepsArgs _ _ s

theorem command_keepsArgs {i : Instr} (hi : i.isCommand = true) (hh : held s = false) (h : exec i s = .next t) :
    KeepsArgs s t := by
  rcases exec_command_cases hi hh h with ⟨_, rfl⟩ | ⟨_, c, j, _, rfl⟩ | ⟨_, _, rfl⟩
  · exact writeResponse_keepsArgs _ _ _ (enterIssue s)
  · exact writeResponse_keepsArgs _ _ _ (enterIssue s)
  · exact ⟨rfl, rfl⟩

/-- ARG is the host's: no command and no μop writes it (R29). -/
theorem exec_keepsArgs {i : Instr} (hh : held s = false) (h : exec i s = .next t) : KeepsArgs s t := by
  cases hi : i.isCommand with
  | true => exact command_keepsArgs hi hh h
  | false => exact uop_keepsArgs (by simp [Instr.isUop, hi]) h

end Args

/-- Settles O4: the access is a write of CMD, of the word its bytes are. -/
theorem stepRunsWrittenCommand : Obligations.StepRunsWrittenCommand := by
  intro s b0 b1 b2 b3 i rest h hh hd
  rw [step_host h hh]
  exact hostAccess_command (s := { s with schedule := rest }) (portAction_cmd s.cfg b0 b1 b2 b3) hd

/-- Settles O6: a busy sequencer moves for the host, and a held dispatch is `issue_held`. -/
theorem heldHostWaitsForSequencer : Obligations.HeldHostWaitsForSequencer :=
  ⟨fun _ _ _ _ _ _ h hq hd => step_host_busy h hq hd, fun _ s hi hh => (exec_command hi s).trans (issue_held hh)⟩

/-- Settles O10: the port's write and reads go to the bank of CTX, and `exec_keepsArgs`. -/
theorem portUsesContextBank : Obligations.PortUsesContextBank := by
  intro s rest hh
  refine ⟨fun v h => ⟨fun hc => ?_, fun hc => ?_⟩, fun h => ?_, fun h => ?_, fun h => ?_,
    fun i t he => exec_keepsArgs hh he⟩
  · simp [step_writeArg h hh, writeArg, hc]
  · simp [step_writeArg h hh, writeArg, hc]
  · simp [step_readReg .arg h hh, readPort, portValue, bankOf_eq_ite, apply_ite Bank.arg]
  · simp [step_readReg .rval h hh, readPort, portValue, bankOf_eq_ite, apply_ite Bank.rval]
  · simp [step_readReg .rstat h hh, readPort, portValue, bankOf_eq_ite, apply_ite Bank.rstat]

/-- Settles O11: the word read is the register at that offset, which the window shows byte by byte. -/
theorem windowBytesAreLittleEndian : Obligations.WindowBytesAreLittleEndian := by
  intro s k rest hh hk h
  obtain ⟨r, rfl⟩ : ∃ r : PortReg, k = offsetOf r := by
    rcases hk with rfl | rfl | rfl
    exacts [⟨.arg, rfl⟩, ⟨.rval, rfl⟩, ⟨.rstat, rfl⟩]
  have hbyte {j : Nat} (hj : j < 4) := windowByte_offsetOf s r hj
  exact ⟨_, _, _, _, _, step_readReg r h hh, congrArg some (leWord_bytes (portValue r s)).symm,
    hbyte (j := 0) (by decide), hbyte (j := 1) (by decide), hbyte (j := 2) (by decide),
    hbyte (j := 3) (by decide), fun j hj => if_pos hj, fun _ => rfl⟩

end Sys2Proof.Proofs
end

section
/-!
What the port answers where no command is performed: a bad access (spec/20_memory.md R38), and the fault record after a
fault (R44).
-/

namespace Sys2Proof.Proofs

open Sys2Proof.Machine Sys2Proof.Laws

section FaultAnswers

/-- Concatenation as a sum: the low part is below `2^n`. -/
theorem toNat_append_eq_add {m n : Nat} (x : BitVec m) (y : BitVec n) :
    (x ++ y).toNat = x.toNat * 2 ^ n + y.toNat := by
  rw [BitVec.toNat_append, ← Nat.shiftLeft_add_eq_or_of_lt y.isLt, Nat.shiftLeft_eq]

/-- The info of BAD_ACCESS as a number: the size from bit 12, the direction in bit 8, the offset below (R38). -/
theorem badInfo_toNat {off size : Nat} (b : Bool) (ho : off < 256) (hs : size < 16) :
    (badInfo off size b).toNat = off + (if b = true then 256 else 0) + 4096 * size := by
  rw [badInfo, BitVec.toNat_setWidth]
  simp only [toNat_append_eq_add, BitVec.toNat_ofNat, Nat.mod_eq_of_lt (show off < 2 ^ 8 from ho),
    Nat.mod_eq_of_lt (show size < 2 ^ 4 from hs)]
  cases b <;> simp <;> omega

variable {s : State}

theorem writeResponse_normal (v st : Word) (s : State) :
    writeResponse .normal v st s = { s with normal := { s.normal with rval := v, rstat := st } } := by
  simp [writeResponse]

theorem writeResponse_callback (v st : Word) (s : State) :
    writeResponse .callback v st s = { s with callback := { s.callback with rval := v, rstat := st } } := by
  simp [writeResponse]

/-- A bus access moves at most 8 bytes (R38). -/
theorem accessSize_le_of_wf {a : Access} (h : a.wf = true) : accessSize a ≤ 8 := by
  cases a <;> simp [Access.wf, accessSize] at h ⊢ <;> omega

theorem readAction_bad {off size : Nat} (h : ∀ k ∈ [4, 8, 12], off ≠ k ∨ size ≠ 4) :
    readAction off size = .bad (badInfo off size false) := by
  simp only [List.mem_cons, List.not_mem_nil, or_false, forall_eq_or_imp, forall_eq] at h
  obtain ⟨harg, hrval, hrstat⟩ := h
  rw [readAction, if_neg (by omega), if_neg (by omega), if_neg (by omega)]

theorem writeAction_bad {off : Nat} {bytes : List Byte} (h : bytes.length = 4 → off ≠ 0 ∧ off ≠ 4) :
    writeAction off bytes = .bad (badInfo off bytes.length true) := by
  unfold writeAction
  split
  · next b0 b1 b2 b3 =>
    obtain ⟨hcmd, harg⟩ := h rfl
    rw [if_neg hcmd, if_neg harg]; rfl
  · rfl

/-- Every access in the window but the five legal ones is bad (R38). -/
theorem portAction_bad {c : Config} {a : Access} {off : Nat} (hw : a.wf = true) (ha : accessAddr a = c.base + off)
    (ho : off < 16) (hcmd : ∀ bs, a ≠ .write c.base bs ∨ bs.length ≠ 4)
    (harg : ∀ bs, a ≠ .write (c.base + 4) bs ∨ bs.length ≠ 4) (hread : ∀ k ∈ [4, 8, 12], a ≠ .read (c.base + k) 4) :
    portAction c a = .bad (badInfo off (accessSize a) (accessIsWrite a)) := by
  rw [portAction_window hw ha ho]
  cases a with
  | read addr size =>
    obtain rfl : addr = c.base + off := ha
    refine readAction_bad fun k hk => ?_
    by_contra hlegal
    obtain ⟨rfl, rfl⟩ : off = k ∧ size = 4 := by simpa [not_or] using hlegal
    exact hread _ hk rfl
  | write addr bytes =>
    obtain rfl : addr = c.base + off := ha
    refine writeAction_bad fun hlen => ⟨?_, ?_⟩ <;> rintro rfl
    · exact (hcmd bytes).elim (fun h => h rfl) (fun h => h hlen)
    · exact (harg bytes).elim (fun h => h rfl) (fun h => h hlen)

/-- A first fault of a host access that is not held is recorded, and answered in the bank of CTX (R117). -/
theorem recordFault_normal (hq : s.seq = []) (hc : s.ctx = .normal) (c : Byte) (j : BitVec 24) :
    recordFault c j (enterIssue s) = { s with
      seqCtx := .normal, fault := c, faultInfo := j, normal := { s.normal with rval := 0, rstat := j ++ c } } := by
  simp [recordFault, enterIssue, hc, hq, writeResponse_normal, rstatWord]

theorem recordFault_callback (hq : s.seq = []) (hc : s.ctx = .callback) (c : Byte) (j : BitVec 24) :
    recordFault c j (enterIssue s) = { s with
      seqCtx := .callback, fault := c, faultInfo := j, callback := { s.callback with rval := 0, rstat := j ++ c } } := by
  simp [recordFault, enterIssue, hc, hq, writeResponse_callback, rstatWord]

theorem badAccess_first (hf : s.fault = 0) (j : BitVec 24) : badAccess j s = recordFault 0x16 j (enterIssue s) :=
  (if_pos hf).trans (if_pos hf)

theorem badAccess_faulted (hf : s.fault ≠ 0) (j : BitVec 24) : badAccess j s = s := if_neg hf

/-- After a fault a CMD write that is not held answers the record, whatever its word (R44, R103). -/
theorem step_cmdWrite_faulted {w : Word} {rest : List Move}
    (h : s.schedule = .host (.write s.cfg.base (wordBytes w)) :: rest) (hh : held s = false) (hf : s.fault ≠ 0) :
    step s = .next (answerFault { s with schedule := rest }) := by
  have hp := portAction_cmdWord s.cfg w
  have hh' : held { s with schedule := rest } = false := hh
  rw [step_host h hh]
  cases hd : decodeCmd w with
  | ok i =>
    obtain ⟨hi, _⟩ := decodeCmd_sound hd
    rw [hostAccess_command (s := { s with schedule := rest }) hp hd, exec_command hi, issue_faulted hh' hf]
  | error r => rw [hostAccess_rejected (s := { s with schedule := rest }) hp hd, rejectCommand, if_pos hf]

end FaultAnswers

/-- Settles O13: the record is answered in the bank of CTX. -/
theorem faultedBlockAnswersRecord : Obligations.FaultedBlockAnswersRecord := by
  intro s w rest h hh hf
  rw [step_cmdWrite_faulted h hh hf]
  exact ⟨fun hc => by simp [answerFault, enterIssue, hc, writeResponse_normal, rstatWord],
    fun hc => by simp [answerFault, enterIssue, hc, writeResponse_callback, rstatWord]⟩

/-- Settles O12: the first bad access records BAD_ACCESS in the bank of CTX, with SEQ empty already; a later one nothing. -/
theorem badAccessOnlyFaults : Obligations.BadAccessOnlyFaults := by
  intro s a off rest h hh hw ha ho hcmd harg hread
  have hp := portAction_bad hw ha ho hcmd harg hread
  have hstep := (step_host h hh).trans (hostAccess_bad (s := { s with schedule := rest }) hp)
  obtain ⟨hq, _⟩ := held_eq_false.1 hh
  have hsize := accessSize_le_of_wf hw
  refine ⟨fun hf => ?_, fun hf => ⟨_, badInfo_toNat _ (by omega) (by omega), ?_⟩⟩
  · rw [hstep, badAccess_faulted (s := { s with schedule := rest }) hf]
  · rw [hstep, badAccess_first (s := { s with schedule := rest }) hf]
    exact ⟨fun hc => congrArg _ (recordFault_normal (s := { s with schedule := rest }) hq hc _ _),
      fun hc => congrArg _ (recordFault_callback (s := { s with schedule := rest }) hq hc _ _)⟩

end Sys2Proof.Proofs
end

section
/-!
A tick and `U_CLR` in both orders (spec/20_memory.md R47): what a tick that arrives latches, and what `U_CLR` clears.
-/

namespace Sys2Proof.Proofs

open Sys2Proof.Machine Sys2Proof.Safety Sys2Proof.Laws

section TickAndClear

variable {s : State} {rest : List Move}

/-- A running counter that is not near latches the arrival (R65). -/
theorem tick_latches (hr : s.run = true) (hn : s.near = false) (ha : addW (width s.cfg) s.counter 1 = s.compare) :
    (tick s).pending = true ∧ (tick s).counter = s.compare := by
  have harr : arriving s = true := arriving_iff.2 ha
  rw [tick, if_pos hr]
  exact ⟨by simp [tickWith, harr, hn], ha⟩

theorem run_tick (h : s.schedule = .tick :: rest) : runSteps 1 s = .next (tick { s with schedule := rest }) :=
  runSteps_one (step_of_schedule h)

/-- The sequencer's move on `U_CLR` discards the latch (R73). -/
theorem run_uClr {q : List Byte} (h : s.schedule = .sequencer :: rest) (hq : s.seq = Instr.uClr.code :: q) :
    runSteps 1 s = .next (finishUop { s with schedule := rest, seq := q, pending := false }) :=
  (run_head s rest .uClr q h hq rfl).trans 
    (runTotal_available (u := .uClr) (p := fun t => { t with pending := false }) rfl)

end TickAndClear

/-- Settles O58: the last of the two moves decides the latch. -/
theorem tickAndClearBothOrders : Obligations.TickAndClearBothOrders := by
  intro s q hr hn hq ha
  constructor
  · have hcount := (tick_latches (s := { s with schedule := .sequencer :: s.schedule }) hr hn ha).2
    have htick : runSteps 1 (withMoves [.tick, .sequencer] s) = _ := run_tick rfl
    have hclr := run_uClr (s := tick { s with schedule := .sequencer :: s.schedule }) (tick_schedule _)
      ((tick_seq _).trans hq)
    exact ⟨_, runSteps_trans htick hclr, by simp, by simpa using hcount⟩
  · have hclr : runSteps 1 (withMoves [.sequencer, .tick] s) = _ := run_uClr rfl hq
    have htick := run_tick (finishUop_schedule { s with schedule := .tick :: s.schedule, seq := q, pending := false })
    obtain ⟨hlatch, hcount⟩ := tick_latches (s := { finishUop
      { s with schedule := .tick :: s.schedule, seq := q, pending := false } with schedule := s.schedule })
      (by simpa using hr) (by simpa using hn) (by simpa using ha)
    exact ⟨_, runSteps_trans hclr htick, hlatch, by simpa using hcount⟩

end Sys2Proof.Proofs
end

section
/-!
The encoding (spec/30_encoding.md R51 to R54, R60): decode and encode are inverse to each other, and a command word that is
no command is rejected by name, in the decoder and at the port.
-/

namespace Sys2Proof.Proofs

open Sys2Proof.Machine Sys2Proof.Safety Sys2Proof.Laws

section Encoding

variable {w : Word} {opc : Byte} {i : Instr}

theorem encode_command (h : i.isCommand = true) : encode i = wordBytes (encodeCmd i) := if_pos h

theorem encode_uop (h : i.isUop = true) : encode i = [i.code] := by
  have hc : i.isCommand = false := by simpa [Instr.isUop] using h
  simp [encode, hc]

/-- A command word is its two fields (R51). -/
theorem rsvField_append_opcField (w : Word) : rsvField w ++ opcField w = w := by
  ext k hk
  simp only [rsvField, opcField, ← BitVec.getLsbD_eq_getElem, BitVec.getLsbD_append, BitVec.getLsbD_extractLsb']
  grind

/-- The words that decode are the command words (R51, R52). -/
theorem decodeCmd_ok_iff : decodeCmd w = .ok i ↔ i.isCommand = true ∧ w = encodeCmd i := by
  constructor
  · intro h
    obtain ⟨hi, hrsv, hopc⟩ := decodeCmd_sound h
    exact ⟨hi, by rw [← rsvField_append_opcField w, hrsv, hopc, encodeCmd]⟩
  · rintro ⟨hi, rfl⟩
    exact decodeCmd_encodeCmd i hi

theorem decodeBytes_encode (i : Instr) : decodeBytes (encode i) = .ok i := by
  cases hc : i.isCommand with
  | true => rw [encode_command hc, decodeBytes_wordBytes, decodeCmd_encodeCmd i hc]
  | false =>
    have hu : i.isUop = true := by simp [Instr.isUop, hc]
    rw [encode_uop hu]
    exact decodeUop_code i hu

/-- Bytes that decode are a μop's one code, or the four bytes of a command word (R51, R60). -/
theorem eq_encode_of_decodeBytes {bs : List Byte} (h : decodeBytes bs = .ok i) : bs = encode i := by
  unfold decodeBytes at h
  split at h
  · obtain ⟨hu, rfl⟩ := decodeUop_sound h
    exact (encode_uop hu).symm
  · obtain ⟨hc, hw⟩ := decodeCmd_ok_iff.1 h
    rw [encode_command hc, ← hw, wordBytes_leWord]
  · cases h

/-- A set reserved bit rejects the word, whatever its opcode (R53). -/
theorem decodeCmd_reservedBits (h : rsvField w ≠ 0) : decodeCmd w = .error (.reservedBits (rsvField w)) := if_neg h

theorem decodeCmd_rsv_zero (h : rsvField w = 0) : decodeCmd w = decodeOpcode (opcField w) := if_pos h

/-- No opcode outside 0x01 to 0x0A is a command's (R54). -/
theorem decodeOpcode_illegal (h : opc = 0 ∨ 0x0B ≤ opc.toNat) : decodeOpcode opc = .error (.illegalOpcode opc) := by
  have hn : opc.toNat = 0 ∨ 0x0B ≤ opc.toNat := h.imp_left (congrArg BitVec.toNat)
  unfold decodeOpcode
  split
  case h_11 => rfl
  all_goals omega

/-- Every opcode from 0x01 to 0x0A is a command's (R52). -/
theorem decodeOpcode_defined (hlo : 1 ≤ opc.toNat) (hhi : opc.toNat ≤ 0x0A) : ∃ i, decodeOpcode opc = .ok i := by
  unfold decodeOpcode
  generalize opc.toNat = n at hlo hhi ⊢
  interval_cases n <;> exact ⟨_, rfl⟩

theorem decodeCmd_illegalOpcode (hr : rsvField w = 0) (ho : opcField w = 0 ∨ 0x0B ≤ (opcField w).toNat) :
    decodeCmd w = .error (.illegalOpcode (opcField w)) := (decodeCmd_rsv_zero hr).trans (decodeOpcode_illegal ho)

theorem rejectCommand_first {s : State} (hf : s.fault = 0) (r : Reject) :
    rejectCommand r s = recordFault (rejectFault r).1 (rejectFault r).2 (enterIssue s) :=
  (if_neg (not_not_intro hf)).trans (if_pos hf)

/-- A ready block records the fault of a word that is no command (R53, R54, R103). -/
theorem step_cmdWrite_rejected {s : State} {rest : List Move} {r : Reject}
    (h : s.schedule = .host (.write s.cfg.base (wordBytes w)) :: rest) (hh : held s = false) (hf : s.fault = 0)
    (hd : decodeCmd w = .error r) :
    step s = .next (recordFault (rejectFault r).1 (rejectFault r).2 (enterIssue { s with schedule := rest })) := by
  rw [step_host h hh, hostAccess_rejected (s := { s with schedule := rest }) (portAction_cmdWord s.cfg w) hd,
    rejectCommand_first (s := { s with schedule := rest }) hf]

theorem ready_iff {s : State} : ready s = true ↔ held s = false ∧ s.fault = 0 := by simp [ready]

end Encoding

/-- Settles O2: an encoding decodes to its instruction, and bytes that decode are one. -/
theorem decodeIffEncode : Obligations.DecodeIffEncode := by
  intro bs i
  constructor
  · exact eq_encode_of_decodeBytes
  · rintro rfl
    exact decodeBytes_encode i

/-- Settles O3: the reserved field is looked at first, then the opcode. -/
theorem illegalWordsRejectedByName : Obligations.IllegalWordsRejectedByName := by
  intro w
  refine ⟨decodeCmd_reservedBits, decodeCmd_illegalOpcode, fun hr hlo hhi => ?_⟩
  obtain ⟨i, hi⟩ := decodeOpcode_defined hlo hhi
  obtain ⟨hc, hcode⟩ := decodeOpcode_sound hi
  exact ⟨i, hc, hcode.symm, (decodeCmd_rsv_zero hr).trans hi⟩

/-- Settles O14: either rejection is recorded, and answered in the bank of CTX. -/
theorem illegalCommandWordFaults : Obligations.IllegalCommandWordFaults := by
  intro s w rest code info h hready hcase
  obtain ⟨hh, hf⟩ := ready_iff.1 hready
  obtain ⟨hq, _⟩ := held_eq_false.1 hh
  have hstep : step s = .next (recordFault code info (enterIssue { s with schedule := rest })) := by
    rcases hcase with ⟨hr, rfl, rfl⟩ | ⟨hr, ho, rfl, rfl⟩
    · rw [step_cmdWrite_rejected h hh hf (decodeCmd_reservedBits hr), rejectFault]
    · rw [step_cmdWrite_rejected h hh hf (decodeCmd_illegalOpcode hr ho), rejectFault]
  rw [hstep]
  exact ⟨fun hc => congrArg _ (recordFault_normal (s := { s with schedule := rest }) hq hc _ _),
    fun hc => congrArg _ (recordFault_callback (s := { s with schedule := rest }) hq hc _ _)⟩

/-- Settles O1: the words of the tables are encodings, and the last two are rejected by R53 and R54. -/
theorem specWordsDecode : Obligations.SpecWordsDecode :=
  ⟨decodeBytes_encode .init, decodeBytes_encode .start, decodeBytes_encode .info, decodeBytes_encode .uInit,
    decodeBytes_encode .uClr, decodeBytes_encode .uInfo, decodeCmd_reservedBits (w := 0x03000000) (by decide),
    decodeCmd_illegalOpcode (w := 0x80) (by decide) (by decide)⟩

end Sys2Proof.Proofs
end

section
/-!
The latched operand (spec/30_encoding.md R55, R56): changing `SEQ_ARG` before a μop that does not read it and after it is the
same.
-/

namespace Sys2Proof.Proofs

open Sys2Proof.Machine Sys2Proof.Laws

/-- The state with another latched operand. -/
def withSeqArg (v : Word) (s : State) : State := { s with seqArg := v }

section LatchedOperand

variable (v : Word) (s : State)

theorem finishUop_withSeqArg : finishUop (withSeqArg v s) = withSeqArg v (finishUop s) := by
  rw [finishUop, finishUop, apply_ite (withSeqArg v)]; rfl

theorem raiseFault_withSeqArg (c : Byte) (j : BitVec 24) :
    raiseFault c j (withSeqArg v s) = withSeqArg v (raiseFault c j s) := by
  rw [raiseFault, raiseFault, apply_ite (withSeqArg v)]; rfl

/-- Only the deadline of U_ARM_ARG and the item of U_INFO are read from the operand. -/
theorem performs_withSeqArg {i : Instr} (harm : i ≠ .uArmArg) (hinfo : i ≠ .uInfo) :
    performs i (withSeqArg v s) = (performs i s).map (withSeqArg v) := by
  cases i with
  | uArmArg => exact absurd rfl harm
  | uInfo => exact absurd rfl hinfo
  | uInit =>
    have hv : validateConfig (withSeqArg v s).cfg = validateConfig s.cfg := rfl
    simp only [performs, hv]
    cases validateConfig s.cfg <;> rfl
  | _ => rfl

theorem exec_withSeqArg {i : Instr} (hu : i.isUop = true) (harm : i ≠ .uArmArg) (hinfo : i ≠ .uInfo) :
    exec i (withSeqArg v s) = mapNext (withSeqArg v) (exec i s) := by
  have hav : uopAvailable (withSeqArg v s).cfg i = uopAvailable s.cfg i := rfl
  rw [exec_uop hu, exec_uop hu, runUop, runUop, hav, performs_withSeqArg v s harm hinfo]
  split
  · rw [raiseFault_withSeqArg]; rfl
  · cases performs i s with
    | ok r => exact congrArg Host.Outcome.next (finishUop_withSeqArg v r)
    | error f => exact congrArg Host.Outcome.next (raiseFault_withSeqArg v s f.1 f.2)

end LatchedOperand

/-- Settles O30: every μop but the two commutes with a change of the operand. -/
theorem otherUopsIgnoreOperand : Obligations.OtherUopsIgnoreOperand := by
  intro i s t v hu harm hinfo h
  have hv := exec_withSeqArg v s hu harm hinfo
  rwa [h] at hv

end Sys2Proof.Proofs
end

section
/-!
A tick, branch by branch (spec/40_counter_backend.md R64, R65).
-/

namespace Sys2Proof.Proofs

open Sys2Proof.Machine Sys2Proof.Laws

section TickBranches

variable {s : State}

theorem tick_stopped (hr : s.run = false) : tick s = s := by
  simp [tick, hr]

/-- A tick that does not arrive at COMPARE only counts. -/
theorem tick_passes {c : Word} (hr : s.run = true) (hc : addW (width s.cfg) s.counter 1 = c) (hne : c ≠ s.compare) :
    tick s = { s with counter := c } := by
  subst hc
  have harr : arriving s = false := Bool.eq_false_iff.2 (mt arriving_iff.1 hne)
  rw [tick, if_pos hr]
  simp [tickWith, countDraw, harr]

theorem tickWith_arrives (ha : addW (width s.cfg) s.counter 1 = s.compare) (b : Bool) : tickWith b s = { s with
    counter := s.compare, pending := s.pending || (!s.near || b), near := false,
    hist := s.hist ++ [if s.near = true ∧ b = false then .missed s.compare else .matched s.compare] } := by
  have harr : arriving s = true := arriving_iff.2 ha
  rw [tickWith, ha, harr]
  simp

/-- A match that is not near is latched, with no draw. -/
theorem tick_matches (hr : s.run = true) (ha : addW (width s.cfg) s.counter 1 = s.compare) (hn : s.near = false) :
    tick s = { s with counter := s.compare, pending := true, hist := s.hist ++ [.matched s.compare] } := by
  have hdraw : countDraw s = s := by rw [countDraw, if_neg (by simp [hn])]
  rw [tick, if_pos hr, hdraw, tickWith_arrives ha]
  simp [hn]

/-- A near match is latched or missed by the draw, which it uses up. -/
theorem tick_near_match (hr : s.run = true) (ha : addW (width s.cfg) s.counter 1 = s.compare) (hn : s.near = true) :
    tick s = { s with
      counter := s.compare, pending := s.pending || Config.freeBool s.draws, near := false, draws := s.draws + 1,
      hist := s.hist ++ [if Config.freeBool s.draws = true then .matched s.compare else .missed s.compare] } := by
  have hdraw : countDraw s = { s with draws := s.draws + 1 } := by simp [countDraw, hn, arriving_iff.2 ha]
  rw [tick, if_pos hr, hdraw, tickWith_arrives (s := { s with draws := s.draws + 1 }) ha]
  cases Config.freeBool s.draws <;> simp [hn]

theorem step_tick {rest : List Move} (h : s.schedule = .tick :: rest) :
    step s = .next (tick { s with schedule := rest }) := step_of_schedule h

end TickBranches

/-- Settles O7: the scheduled tick is one of the four branches. -/
theorem tickCountsAndLatchesArrival : Obligations.TickCountsAndLatchesArrival := by
  intro s rest h
  rw [step_tick h]
  refine ⟨fun hr => ?_, fun hr ha => ?_, fun hr ha hn => ?_, fun hr ha hn => ?_⟩
  · rw [tick_stopped (s := { s with schedule := rest }) hr]
  · rw [tick_passes (s := { s with schedule := rest }) hr rfl ha]
  · rw [tick_matches (s := { s with schedule := rest }) hr ha hn]
  · rw [tick_near_match (s := { s with schedule := rest }) hr ha hn]
    cases Config.freeBool s.draws <;> simp

end Sys2Proof.Proofs
end

section
/-!
The backend's μops (spec/40_counter_backend.md R66 to R80): on its backend a μop does what `performs` lists and ends; on the
other it raises; and what a compare write does in each case of R72.
-/

namespace Sys2Proof.Proofs

open Sys2Proof.Machine Sys2Proof.Safety Sys2Proof.Laws

section BackendUops

variable {s t : State} {i : Instr}

/-- A μop of the live backend that raises nothing: what it performs, then the end of the step (R105). -/
theorem exec_performs (hu : i.isUop = true) (hav : uopAvailable s.cfg i = true) (hp : performs i s = .ok t) :
    exec i s = .next (finishUop t) := by
  rw [exec_uop hu]
  simp [runUop, hav, hp]

theorem raiseFault_eq_faulted (c : Byte) (j : BitVec 24) (s : State) : raiseFault c j s = faulted c j s := by
  by_cases hf : s.fault = 0
  · rw [raiseFault, if_pos hf, faulted, if_neg (not_not_intro hf)]; rfl
  · rw [raiseFault, if_neg hf, faulted, if_pos hf]

theorem exec_unavailable (hu : i.isUop = true) (hav : uopAvailable s.cfg i = false) :
    exec i s = .next (faulted 0x17 (i.code.setWidth 24) s) := by
  rw [exec_uop hu, runUop_unavailable hav, raiseFault_eq_faulted]

/-- A compare write of the count without `P_WRITE_EQ_MATCH`. -/
theorem armCompare_count (hm : s.cfg.pWriteEqMatch = false) :
    armCompare s.counter s = { s with compare := s.counter, near := false } := by
  simp [armCompare, hm]

/-- A compare write of the count with `P_WRITE_EQ_MATCH` latches at once. -/
theorem armCompare_count_matches (hm : s.cfg.pWriteEqMatch = true) :
    armCompare s.counter s = { s with
      compare := s.counter, near := false, pending := true, hist := s.hist ++ [.matched s.counter] } := by
  simp [armCompare, hm]

/-- A compare write of any other value latches nothing. -/
theorem armCompare_of_ne {v : Word} (hv : v ≠ s.counter) : armCompare v s = { s with
    compare := v, near := decide (mdiffW (width s.cfg) v s.counter ≤ s.cfg.missWindow) } := by
  simp [armCompare, hv]

end BackendUops

/-- Settles O34: each is on its backend, and performs its one write. -/
theorem readingUopsWriteOneRegister : Obligations.ReadingUopsWriteOneRegister := by
  intro s
  refine ⟨fun hb => ?_, fun hb => ?_, fun hb => ?_, fun hb => ?_, fun hb => ?_, exec_performs rfl rfl rfl⟩
  · exact exec_performs rfl (beq_iff_eq.2 hb) rfl
  · exact exec_performs rfl (beq_iff_eq.2 hb) rfl
  · exact exec_performs rfl (beq_iff_eq.2 hb) rfl
  · exact exec_performs rfl (beq_iff_eq.2 hb) rfl
  · exact exec_performs rfl (beq_iff_eq.2 hb) (by simp [performs, boolWord])

/-- Settles O36: both perform one compare write, in the three cases of R72. -/
theorem armUopsWriteCompare : Obligations.ArmUopsWriteCompare := by
  intro s i v hi
  have hexec : exec i s = .next (finishUop (armCompare v s)) := by
    rcases hi with ⟨rfl, rfl⟩ | ⟨rfl, rfl⟩ <;> exact exec_performs rfl rfl rfl
  rw [hexec]
  refine ⟨?_, ?_, fun hv => ?_⟩
  · rintro rfl hm
    rw [armCompare_count hm]
  · rintro rfl hm
    rw [armCompare_count_matches hm]
  · rw [armCompare_of_ne hv]

/-- Settles O35: the other backend's μops are not available. -/
theorem unavailableUopFaults : Obligations.UnavailableUopFaults := by
  intro s
  refine ⟨fun hb => ⟨?_, ?_⟩, fun hb => ⟨?_, ?_, ?_⟩⟩ <;> exact exec_unavailable rfl (by simp [uopAvailable, hb])

/-- Settles O37: each is on both backends, and performs its one write. -/
theorem oneBitUops : Obligations.OneBitUops := fun _ =>
  ⟨exec_performs rfl rfl rfl, exec_performs rfl rfl rfl, exec_performs rfl rfl rfl, exec_performs rfl rfl rfl,
    exec_performs rfl rfl rfl⟩

end Sys2Proof.Proofs
end

section
/-!
The first match (spec/40_counter_backend.md R65, spec/70_reset_and_hazards.md R140): ticks that do not bring the count to
COMPARE only count, and the first that does is at the modular distance, or a whole wrap away.
-/

namespace Sys2Proof.Proofs

open Sys2Proof.Machine Sys2Proof.Safety Sys2Proof.Laws

/-- How many ticks bring the count to COMPARE for the first time. -/
def ticksToMatch (s : State) : Nat :=
  if s.compare = s.counter then 2 ^ width s.cfg else mdiffW (width s.cfg) s.compare s.counter

section FirstMatch

variable {s : State} {n : Nat}

/-- Going on by the distance to a point reaches it. -/
theorem add_mdiffW {w : Nat} {a b : Word} (ha : a.toNat < 2 ^ w) (hb : b.toNat < 2 ^ w) :
    (a.toNat + mdiffW w b a) % 2 ^ w = b.toNat := by
  rw [mdiffW, Nat.mod_eq_of_lt ha, Nat.add_mod_mod, show a.toNat + (b.toNat + (2 ^ w - a.toNat)) = b.toNat + 2 ^ w by omega,
    Nat.add_mod_right, Nat.mod_eq_of_lt hb]

theorem countAfter_toNat (hw : s.cfg.wf = true) (n : Nat) :
    (countAfter s n).toNat = (s.counter.toNat + n) % 2 ^ width s.cfg := by
  have hlt : (s.counter.toNat + n) % 2 ^ width s.cfg < 2 ^ 32 :=
    (Nat.mod_lt _ (Nat.two_pow_pos _)).trans_le (Nat.pow_le_pow_right two_pos (width_range hw).2)
  rw [countAfter, BitVec.toNat_ofNat, Nat.mod_eq_of_lt hlt]

theorem countAfter_zero (h : Inv s) : countAfter s 0 = s.counter := by
  rw [countAfter, Nat.add_zero, Nat.mod_eq_of_lt h.counterFits, BitVec.ofNat_toNat, BitVec.setWidth_eq]

theorem addW_countAfter (hw : s.cfg.wf = true) (n : Nat) :
    addW (width s.cfg) (countAfter s n) 1 = countAfter s (n + 1) := by
  apply BitVec.eq_of_toNat_eq
  rw [addW_one_toNat (width_range hw).2, countAfter_toNat hw, countAfter_toNat hw, Nat.mod_add_mod, Nat.add_assoc]

theorem ticks_succ (n : Nat) (rest : List Move) : ticks (n + 1) ++ rest = ticks n ++ .tick :: rest := by
  simp [ticks, List.replicate_succ']

/-- Ticks none of which brings the count to COMPARE move the count on and change nothing else. -/
theorem run_ticks_passing (h : Inv s) (hw : s.cfg.wf = true) (hr : s.run = true) (n : Nat) (rest : List Move)
    (hs : s.schedule = ticks n ++ rest) (hne : ∀ m, 0 < m → m ≤ n → countAfter s m ≠ s.compare) :
    runSteps n s = .next { s with counter := countAfter s n, schedule := rest } := by
  induction n generalizing rest with
  | zero => rw [countAfter_zero h, ← show s.schedule = rest from hs]; rfl
  | succ n ih =>
    have hrun := ih (.tick :: rest) (hs.trans (ticks_succ n rest)) fun m hpos hm => hne m hpos (by omega)
    have htick : tick { s with counter := countAfter s n, schedule := rest } = _ :=
      tick_passes hr (addW_countAfter hw n) (hne (n + 1) n.succ_pos le_rfl)
    exact runSteps_trans hrun ((run_tick rfl).trans (congrArg _ htick))

theorem ticksToMatch_pos (h : Inv s) : 0 < ticksToMatch s := by
  unfold ticksToMatch
  split
  · exact Nat.two_pow_pos _
  · next hne => exact Nat.pos_of_ne_zero (mt (eq_of_mdiffW_zero h.compareFits h.counterFits) hne)

theorem countAfter_ticksToMatch (h : Inv s) (hw : s.cfg.wf = true) : countAfter s (ticksToMatch s) = s.compare := by
  apply BitVec.eq_of_toNat_eq
  rw [countAfter_toNat hw, ticksToMatch]
  split
  · next heq => rw [Nat.add_mod_right, heq, Nat.mod_eq_of_lt h.counterFits]
  · exact add_mdiffW h.counterFits h.compareFits

/-- No earlier tick brings the count to COMPARE: a point less than a wrap ahead is at its own distance. -/
theorem countAfter_ne_compare (h : Inv s) (hw : s.cfg.wf = true) (hpos : 0 < n) (hn : n < ticksToMatch s) :
    countAfter s n ≠ s.compare := by
  intro hc
  have hcompare : s.compare.toNat = (s.counter.toNat + n) % 2 ^ width s.cfg := by rw [← hc, countAfter_toNat hw]
  unfold ticksToMatch at hn
  split at hn
  · next heq =>
    have hd := mdiffW_of_ahead h.counterFits hn hcompare
    rw [heq, mdiffW_self h.counterFits] at hd
    omega
  · have hd := mdiffW_of_ahead h.counterFits (hn.trans (mdiffW_lt _ _ _)) hcompare
    omega

/-- Before the match the ticks only count. -/
theorem run_ticks_before_match (h : Inv s) (hw : s.cfg.wf = true) (hr : s.run = true) (hn : n < ticksToMatch s)
    (rest : List Move) (hs : s.schedule = ticks n ++ rest) :
    runSteps n s = .next { s with counter := countAfter s n, schedule := rest } :=
  run_ticks_passing h hw hr n rest hs fun _ hpos hm => countAfter_ne_compare h hw hpos (hm.trans_lt hn)

/-- The tick that arrives latches, if the match is not near. -/
theorem run_ticks_to_match (h : Inv s) (hw : s.cfg.wf = true) (hr : s.run = true) (hnear : s.near = false)
    (rest : List Move) (hs : s.schedule = ticks (ticksToMatch s) ++ rest) :
    runSteps (ticksToMatch s) s = .next { s with
      counter := s.compare, pending := true, hist := s.hist ++ [.matched s.compare], schedule := rest } := by
  obtain ⟨n, hn⟩ : ∃ n, ticksToMatch s = n + 1 := Nat.exists_eq_succ_of_ne_zero (ticksToMatch_pos h).ne'
  have harrive : addW (width s.cfg) (countAfter s n) 1 = s.compare := by
    rw [addW_countAfter hw, ← hn, countAfter_ticksToMatch h hw]
  rw [hn, ticks_succ] at hs
  rw [hn]
  have hrun := run_ticks_before_match h hw hr (show n < ticksToMatch s by omega) _ hs
  have htick : tick { s with counter := countAfter s n, schedule := rest } = _ := tick_matches hr harrive hnear
  exact runSteps_trans hrun ((run_tick rfl).trans (congrArg _ htick))

end FirstMatch

/-- Settles O54: the ticks before the match only count, and the tick that arrives latches. -/
theorem firstMatchAtModularDistance : Obligations.FirstMatchAtModularDistance := by
  intro s k n h hw hr hnear hk
  obtain rfl : k = ticksToMatch s := hk
  have hinv (ms : List Move) : Inv (withMoves ms s) := { h with }
  constructor
  · intro hn
    exact ⟨_, run_ticks_before_match (hinv _) hw hr hn s.schedule rfl, rfl, rfl⟩
  · exact ⟨_, run_ticks_to_match (hinv _) hw hr hnear s.schedule rfl, rfl, rfl, rfl⟩

end Sys2Proof.Proofs
end

section
/-!
GET_COUNTER on CC (spec/40_counter_backend.md R67, R68, spec/43_facade.md R109): ticks, the capture, ticks, the read of what
was captured.
-/

namespace Sys2Proof.Proofs

open Sys2Proof.Machine Sys2Proof.Safety Sys2Proof.Laws

section CaptureRead

variable {s t : State} {n n0 n1 : Nat} {rest : List Move}

theorem quietRel_of_ticks (h : TickRel n s t) : QuietRel s t := ⟨h.eq, h.notified⟩

theorem counter_of_ticks (h : TickRel n s t) (hw : s.cfg.wf = true) (hc : s.counter.toNat < 2 ^ width s.cfg) :
    t.counter = countAfter s n := by
  have hwt : t.cfg.wf = true := by rwa [(quietRel_of_ticks h).cfg]
  exact BitVec.eq_of_toNat_eq ((h.counter hwt hc).trans (countAfter_toNat hw n).symm)

theorem countAfter_lt (hw : s.cfg.wf = true) (n : Nat) : (countAfter s n).toNat < 2 ^ width s.cfg := by
  rw [countAfter_toNat hw]
  exact Nat.mod_lt _ (Nat.two_pow_pos _)

/-- Counting on from a count. -/
theorem countAfter_of_counter (hw : s.cfg.wf = true) (hcfg : t.cfg = s.cfg) (hc : t.counter = countAfter s n0) (n1 : Nat) :
    countAfter t n1 = countAfter s (n0 + n1) := by
  rw [countAfter, hcfg, hc, countAfter_toNat hw, Nat.mod_add_mod, Nat.add_assoc, countAfter]

/-- The end of a command's sequence answers `RESULT` and a zero status in the bank of its context (R106). -/
theorem bankOf_finishUop {c : Ctx} (hq : s.seq = []) (hs : s.seqCtx = c) (hc : c ≠ .service) :
    bankOf (finishUop s) c = { bankOf s c with rval := s.result, rstat := 0 } := by
  subst hs
  rw [finishUop, if_pos ⟨hq, hc⟩, respond]
  cases hx : s.seqCtx with
  | normal => rw [writeResponse_normal]; rfl
  | callback => rw [writeResponse_callback]; rfl
  | service => exact absurd hx hc

/-- The capture step keeps the count it sees, and the read answers it, whatever ticks come before and between. -/
theorem run_captureThenRead (hw : s.cfg.wf = true) (hfits : s.counter.toNat < 2 ^ width s.cfg)
    (hb : s.cfg.backendSel = 1) (hr : s.run = true) (hq : s.seq = codes [.uCapture, .uReadCap])
    (h : s.schedule = ticks n0 ++ .sequencer :: (ticks n1 ++ .sequencer :: rest)) :
    ∃ t, runSteps (n0 + 1 + (n1 + 1)) s = .next (finishUop t) ∧ t.seq = [] ∧ t.seqCtx = s.seqCtx ∧
      t.result = countAfter s n0 ∧ t.capture = countAfter s n0 ∧ t.counter = countAfter s (n0 + n1) ∧
      t.compare = s.compare ∧ t.ie = s.ie ∧ t.astate = s.astate := by
  obtain ⟨u, hcapture, hticks, _⟩ := run_ticksThenUop n0 s _ .uCapture (fun x => { x with capture := x.counter })
    (codes [.uReadCap]) h hr hq rfl (beq_iff_eq.2 hb) fun _ => rfl
  have hu := quietRel_of_ticks hticks
  have hcount := counter_of_ticks hticks hw hfits
  generalize hv : finishUop _ = v at hcapture
  have hvcfg : v.cfg = s.cfg := by simp [← hv, hu.cfg]
  have hvcount : v.counter = countAfter s n0 := by simp [← hv, hcount]
  obtain ⟨x, hread, hticks', _⟩ := run_ticksThenUop n1 v rest .uReadCap (fun x => { x with result := x.capture })
    [] (by simp [← hv]) (by simp [← hv, hu.run, hr]) (by simp [← hv, codes]) rfl (beq_iff_eq.2 (by rw [hvcfg, hb]))
    fun _ => rfl
  have hx := quietRel_of_ticks hticks'
  have hxcapture : x.capture = countAfter s n0 := by rw [hx.eq]; simp [← hv, hcount]
  have hxcount : x.counter = countAfter s (n0 + n1) := by
    have hvfits : v.counter.toNat < 2 ^ width v.cfg := by rw [hvcount, hvcfg]; exact countAfter_lt hw n0
    rw [counter_of_ticks hticks' (by rwa [hvcfg]) hvfits, countAfter_of_counter hw hvcfg hvcount]
  refine ⟨_, runSteps_trans hcapture hread, rfl, ?_, hxcapture, hxcapture, hxcount, ?_, ?_, ?_⟩
  · exact hx.seqCtx.trans (by simp [← hv, hu.seqCtx])
  · exact hx.compare.trans (by simp [← hv, hu.compare])
  · exact hx.ie.trans (by simp [← hv, hu.ie])
  · exact hx.astate.trans (by simp [← hv, hu.astate])

end CaptureRead

/-- Settles O48: the write loads the capture and the read, and the answer is in the bank of the issuing context. -/
theorem captureReadIsTheCapturedCount : Obligations.CaptureReadIsTheCapturedCount := by
  intro s n0 n1 h hw hready hdone hb moves
  obtain ⟨hh, _⟩ := ready_iff.1 hready
  obtain ⟨_, hctx⟩ := held_eq_false.1 hh
  have hsched : (withMoves moves s).schedule =
      cmdWrite s .getCounter :: (ticks n0 ++ .sequencer :: (ticks n1 ++ .sequencer :: s.schedule)) := by
    simp [withMoves, moves]
  have hlen : moves.length = 1 + (n0 + 1 + (n1 + 1)) := by simp [moves, ticks]; omega
  have hdispatch : dispatchFault Instr.getCounter.code (withMoves moves s) = none := by
    simp [dispatchFault, Instr.code, withMoves, hdone]
  have hload := run_commandWrite (withMoves moves s) _ .getCounter hsched hready rfl hdispatch
  have hrun : s.run = true := h.runIsInit.trans hdone
  obtain ⟨t, hseq, hnil, hseqCtx, hresult, hcapture, hcounter, hcompare, hie, hastate⟩ :=
    run_captureThenRead (s := loadSequence Instr.getCounter.code (sequenceOf s.cfg .getCounter) { s with schedule := _ })
      (n0 := n0) (n1 := n1) (rest := s.schedule) hw h.counterFits hb hrun (by simp [sequenceOf, hb, codes]) rfl
  have hbank := bankOf_finishUop hnil hseqCtx hctx
  refine ⟨finishUop t, hlen ▸ runSteps_trans hload hseq, ?_⟩
  simp only [finishUop_seq, finishUop_capture, finishUop_counter, finishUop_compare, finishUop_ie, finishUop_astate]
  exact ⟨hnil, (congrArg Bank.rval hbank).trans hresult, congrArg Bank.rstat hbank, hcapture, hcounter, hcompare, hie,
    hastate⟩

end Sys2Proof.Proofs
end

section
/-!
R88 and R91 over every run (spec/41_alarm_controller.md): the invariant along a path, read where no sequence runs.
-/

namespace Sys2Proof.Proofs

open Sys2Proof.Machine Sys2Proof.Safety Sys2Proof.Laws

section Runs

variable {s t : State}

theorem inv_of_path {ok : State → Move → Bool} (h : Inv s) (hpath : Path ok s t) : Inv t := by
  induction hpath with
  | refl => exact h
  | snoc _ _ hstep ih => exact stepKeepsInvariant _ _ ih hstep

theorem inv_of_reachable (h : Reachable s) : Inv s := by
  obtain ⟨c, d, q, _, hpath⟩ := h
  exact inv_of_path (inv_resetWith c d q) hpath

/-- R88, in a state with no sequence in progress. -/
theorem enable_iff_armed (h : Inv s) (hq : s.seq = []) : s.ie = true ↔ s.astate = .armed :=
  (enableAgrees_idle hq).1 h.enable

/-- Only an acceptance enters the service (R121). -/
theorem acceptEnabled_of_service (hstep : step s = .next t) (hs : s.ctx ≠ .service) (ht : t.ctx = .service) :
    acceptEnabled s = true := by
  rcases step_ctx hstep (by rw [ht]; exact hs.symm) with ⟨_, ha, _⟩ | ⟨_, ⟨_, hc⟩ | ⟨_, hc⟩⟩
  · exact ha
  · cases ht.symm.trans hc
  · cases ht.symm.trans hc

end Runs

/-- Settles O20: a reachable state meets the invariant. -/
theorem idleEnableIffArmed : Obligations.IdleEnableIffArmed :=
  fun _ hreach hq => enable_iff_armed (inv_of_reachable hreach) hq

/-- Settles O21: an enabled acceptance finds SEQ empty and the enable on, and so the alarm Armed. -/
theorem noInterruptWhileDisarmed : Obligations.NoInterruptWhileDisarmed := by
  intro s t hreach hstep hs ht
  obtain ⟨_, _, _, hq, _, hie⟩ := acceptEnabled_iff.1 (acceptEnabled_of_service hstep hs ht)
  exact (idleEnableIffArmed s hreach hq).1 hie

end Sys2Proof.Proofs
end

section
/-!
The μops of START, STOP and SET with ticks before each (spec/41_alarm_controller.md R83 to R85): what they write does not
depend on the ticks, and what the ticks write is the count, the latch, NEAR and the history of matches.
-/

namespace Sys2Proof.Proofs

open Sys2Proof.Machine Sys2Proof.Safety Sys2Proof.Laws

/-- The μops START, STOP and SET are made of (R83 to R85). -/
def alarmUops : List Instr := [.uArmArg, .uClr, .uIe1, .uIe0, .uArmed, .uDisarmed]

/-- What a μop that raises nothing performs. -/
def performed (i : Instr) (s : State) : State :=
  match performs i s with
  | .ok t => t
  | .error _ => s

/-- The μops of a sequence popped and performed one after another. -/
def performedAll (is : List Instr) (s : State) : State :=
  is.foldl (fun t i => performed i { t with seq := t.seq.tail }) s

/-- Sequencer moves, one for each μop of the list, each after its number of ticks. -/
def tickedMoves (l : List (Nat × Instr)) : List Move := sequencerAfter (l.map fun x => ticks x.1)

/-- Some `U_CLR` of the list has no tick and no compare write after it: nothing that could raise the latch again. -/
def LastClears : List (Nat × Instr) → Prop
  | [] => False
  | (_, i) :: l => (i = .uClr ∧ ∀ x ∈ l, x.1 = 0 ∧ x.2 ≠ .uArmArg) ∨ LastClears l

/-- From `s` to `t` the alarm μops of the list have run, each after its number of ticks. -/
structure AlarmRun (l : List (Nat × Instr)) (s t : State) : Prop where
  /-- What ticks do not write. -/
  quiet : QuietRel (performedAll (l.map Prod.snd) s) t
  /-- The count. -/
  counter : t.counter = countAfter s (l.map Prod.fst).sum
  /-- Without `U_CLR` the latch is held. -/
  latchHeld : (∀ x ∈ l, x.2 ≠ .uClr) → s.pending = true → t.pending = true
  /-- Without a tick or a compare write it does not rise. -/
  latchNotRaised : (∀ x ∈ l, x.1 = 0 ∧ x.2 ≠ .uArmArg) → s.pending = false → t.pending = false
  /-- After the last `U_CLR` it is down. -/
  latchCleared : LastClears l → t.pending = false

section AlarmSequences

variable {s t u : State} {i : Instr} {n : Nat} {x : Nat × Instr} {l : List (Nat × Instr)} {is : List Instr}
  {rest : List Move}

@[simp] theorem tickedMoves_nil : tickedMoves [] = [] := rfl

@[simp] theorem tickedMoves_cons (x : Nat × Instr) (l : List (Nat × Instr)) :
    tickedMoves (x :: l) = ticks x.1 ++ .sequencer :: tickedMoves l := by simp [tickedMoves]

@[simp] theorem ticks_length (n : Nat) : (ticks n).length = n := List.length_replicate ..

theorem alarmUops_cases (hi : i ∈ alarmUops) :
    i = .uArmArg ∨ i = .uClr ∨ i = .uIe1 ∨ i = .uIe0 ∨ i = .uArmed ∨ i = .uDisarmed := by
  simpa [alarmUops] using hi

theorem performs_alarm (hi : i ∈ alarmUops) (s : State) : performs i s = .ok (performed i s) := by
  rcases alarmUops_cases hi with rfl | rfl | rfl | rfl | rfl | rfl <;> rfl

theorem alarmUop_available (hi : i ∈ alarmUops) (c : Config) : i.isUop = true ∧ uopAvailable c i = true := by
  rcases alarmUops_cases hi with rfl | rfl | rfl | rfl | rfl | rfl <;> exact ⟨rfl, rfl⟩

/-- The registers an alarm μop may write (R70, R73 to R75, R81, R82). -/
theorem performed_frame (hi : i ∈ alarmUops) (s : State) : ∃ c p n e a h, performed i s = { s with
    compare := c, pending := p, near := n, ie := e, astate := a, hist := h } := by
  rcases alarmUops_cases hi with rfl | rfl | rfl | rfl | rfl | rfl <;> exact ⟨_, _, _, _, _, _, rfl⟩

theorem armCompare_notified (v : Word) (s : State) : notifyCount (armCompare v s).hist = notifyCount s.hist := by
  simp only [armCompare]
  split
  · simp [notifyCount]
  · rfl

theorem performed_notified (hi : i ∈ alarmUops) (s : State) :
    notifyCount (performed i s).hist = notifyCount s.hist := by
  rcases alarmUops_cases hi with rfl | rfl | rfl | rfl | rfl | rfl
  · exact armCompare_notified _ s
  all_goals rfl

/-- An alarm μop reads nothing that ticks write into a register that they do not. -/
theorem performed_quiet (hi : i ∈ alarmUops) (h : QuietRel s t) : QuietRel (performed i s) (performed i t) := by
  refine ⟨?_, by rw [performed_notified hi, performed_notified hi, h.notified]⟩
  rw [h.eq]
  rcases alarmUops_cases hi with rfl | rfl | rfl | rfl | rfl | rfl <;> rfl

theorem performedAll_quiet (hl : is ⊆ alarmUops) (h : QuietRel s t) :
    QuietRel (performedAll is s) (performedAll is t) := by
  induction is generalizing s t with
  | nil => exact h
  | cons i is ih =>
    have hpop : QuietRel { s with seq := s.seq.tail } { t with seq := t.seq.tail } := ⟨by rw [h.eq], h.notified⟩
    obtain ⟨hi, his⟩ := List.cons_subset.1 hl
    exact ih his (performed_quiet hi hpop)

theorem performed_holds_latch (hi : i ∈ alarmUops) (hclr : i ≠ .uClr) (hp : s.pending = true) :
    (performed i s).pending = true := by
  rcases alarmUops_cases hi with rfl | rfl | rfl | rfl | rfl | rfl
  · simp [performed, performs, armCompare, hp]
  · exact absurd rfl hclr
  all_goals exact hp

theorem performed_raises_no_latch (hi : i ∈ alarmUops) (harm : i ≠ .uArmArg) (hp : s.pending = false) :
    (performed i s).pending = false := by
  rcases alarmUops_cases hi with rfl | rfl | rfl | rfl | rfl | rfl
  · exact absurd rfl harm
  · rfl
  all_goals exact hp

/-- Scheduled ticks, then a sequencer move on an alarm μop (R105). -/
theorem run_alarmUop {q : List Byte} (hw : s.cfg.wf = true) (hfits : s.counter.toNat < 2 ^ width s.cfg)
    (hr : s.run = true) (hi : i ∈ alarmUops) (hq : s.seq = i.code :: q)
    (h : s.schedule = ticks n ++ .sequencer :: rest) :
    ∃ t, runSteps (n + 1) s = .next (finishUop t) ∧ AlarmRun [(n, i)] s t ∧ t.cfg = s.cfg ∧ t.run = s.run ∧ t.seq = q ∧
      t.schedule = rest := by
  obtain ⟨hu, hav⟩ := alarmUop_available hi s.cfg
  obtain ⟨u, hrun, hticks, h0⟩ := run_ticksThenUop n s rest i (performed i) q h hr hq hu hav (performs_alarm hi)
  have hquiet := quietRel_of_ticks hticks
  have hpopped : QuietRel { s with seq := s.seq.tail } { u with schedule := rest, seq := q } :=
    ⟨by rw [hquiet.eq, hq, List.tail_cons], hquiet.notified⟩
  obtain ⟨_, _, _, _, _, _, e⟩ := performed_frame hi { u with schedule := rest, seq := q }
  refine ⟨_, hrun, ⟨performed_quiet hi hpopped, ?_, ?_, ?_, ?_⟩, by rw [e]; exact hquiet.cfg, by rw [e]; exact hquiet.run,
    by rw [e], by rw [e]⟩
  · rw [e]
    simpa using counter_of_ticks hticks hw hfits
  · intro hclr hp
    exact performed_holds_latch hi (by simpa using hclr) (hticks.pending hp)
  · intro hnone hp
    obtain ⟨hn, harm⟩ : n = 0 ∧ i ≠ .uArmArg := by simpa using hnone
    exact performed_raises_no_latch hi harm (by simpa [h0 hn] using hp)
  · intro hclr
    obtain rfl : i = .uClr := by simpa [LastClears] using hclr
    rfl

theorem AlarmRun.cons (hw : s.cfg.wf = true) (hcfg : u.cfg = s.cfg) (hl : l.map Prod.snd ⊆ alarmUops)
    (h : AlarmRun [x] s u) (h' : AlarmRun l u t) : AlarmRun (x :: l) s t where
  quiet := (performedAll_quiet hl h.quiet).trans h'.quiet
  counter := by
    rw [h'.counter, countAfter_of_counter hw hcfg h.counter]
    simp
  latchHeld hclr hp :=
    h'.latchHeld (fun y hy => hclr y (List.mem_cons_of_mem x hy)) (h.latchHeld (by simpa using hclr x) hp)
  latchNotRaised hnone hp :=
    h'.latchNotRaised (fun y hy => hnone y (List.mem_cons_of_mem x hy)) (h.latchNotRaised (by simpa using hnone x) hp)
  latchCleared hclr := by
    rcases hclr with ⟨hx, hnone⟩ | hclr
    · exact h'.latchNotRaised hnone (h.latchCleared (.inl ⟨hx, by simp⟩))
    · exact h'.latchCleared hclr

/-- A scheduled sequence of alarm μops, with ticks before each, runs to its response (R105, R106). -/
theorem run_alarmUops (x : Nat × Instr) (l : List (Nat × Instr)) (hw : s.cfg.wf = true)
    (hfits : s.counter.toNat < 2 ^ width s.cfg) (hr : s.run = true) (hl : (x :: l).map Prod.snd ⊆ alarmUops)
    (hq : s.seq = codes ((x :: l).map Prod.snd)) (h : s.schedule = tickedMoves (x :: l) ++ rest) :
    ∃ t, runSteps (tickedMoves (x :: l)).length s = .next (finishUop t) ∧ AlarmRun (x :: l) s t ∧ t.seq = [] ∧
      t.schedule = rest := by
  induction l generalizing x s with
  | nil =>
    obtain ⟨u, hrun, hone, _, _, hseq, hsched⟩ :=
      run_alarmUop (n := x.1) (rest := rest) hw hfits hr (hl List.mem_cons_self) hq (by simpa using h)
    exact ⟨u, by simpa using hrun, hone, hseq, hsched⟩
  | cons y l ih =>
    obtain ⟨hi, hl⟩ := List.cons_subset.1 hl
    obtain ⟨u, hrun, hone, hcfg, hrunning, hseq, hsched⟩ :=
      run_alarmUop (n := x.1) (rest := tickedMoves (y :: l) ++ rest) hw hfits hr hi hq (by simpa using h)
    have hmid : finishUop u = u := by rw [finishUop, if_neg (by simp [hseq])]
    have hufits : u.counter.toNat < 2 ^ width u.cfg := by rw [hone.counter, hcfg]; exact countAfter_lt hw _
    obtain ⟨t, hrest, htail, hnil, hs⟩ := ih y (by rwa [hcfg]) hufits (hrunning.trans hr) hl hseq hsched
    refine ⟨t, ?_, .cons hw hcfg hl hone htail, hnil, hs⟩
    rw [show (tickedMoves (x :: y :: l)).length = x.1 + 1 + (tickedMoves (y :: l)).length by simp; omega]
    exact runSteps_trans (hmid ▸ hrun) hrest

/-- After INIT only INIT itself and CBRET can be turned away (R103). -/
theorem dispatchFault_afterInit {opc : Byte} (hd : s.initDone = true) (hinit : opc ≠ 0x01) (hcbret : opc ≠ 0x08) :
    dispatchFault opc s = none := by
  rw [dispatchFault, if_neg fun h => hinit h.1, if_neg (by simp [hd]), if_neg fun h => hcbret h.1]

/-- The write of a command that is not turned away, with moves scheduled after it (R103). -/
theorem run_load (ms : List Move) (hready : ready s = true) (hd : s.initDone = true) (hi : i.isCommand = true)
    (hinit : i.code ≠ 0x01) (hcbret : i.code ≠ 0x08) : runSteps 1 (withMoves (cmdWrite s i :: ms) s) =
      .next (loadSequence i.code (sequenceOf s.cfg i) { s with schedule := ms ++ s.schedule }) :=
  run_commandWrite (withMoves (cmdWrite s i :: ms) s) _ i rfl hready hi
    (dispatchFault_afterInit (s := withMoves _ s) hd hinit hcbret)

/-- From `s` a command of alarm μops has run to its response at `t`, each μop after its number of ticks. -/
structure AlarmCommand (i : Instr) (l : List (Nat × Instr)) (s t : State) : Prop where
  /-- The deadline is what the μops make of it, ticks or none. -/
  compare : t.compare = (performedAll (l.map Prod.snd) (loadSequence i.code (l.map Prod.snd) s)).compare
  /-- So is the enable. -/
  ie : t.ie = (performedAll (l.map Prod.snd) (loadSequence i.code (l.map Prod.snd) s)).ie
  /-- So is AlarmState. -/
  astate : t.astate = (performedAll (l.map Prod.snd) (loadSequence i.code (l.map Prod.snd) s)).astate
  /-- The sequence has ended. -/
  seq : t.seq = []
  /-- The context is that of the issue. -/
  ctx : t.ctx = s.ctx
  /-- Nothing was raised. -/
  fault : t.fault = 0
  /-- The count. -/
  counter : t.counter = countAfter s (l.map Prod.fst).sum
  /-- The scheduled moves are used up. -/
  schedule : t.schedule = s.schedule
  /-- The response is zero (R106). -/
  bank : bankOf t s.ctx = { arg := (bankOf s s.ctx).arg, rval := 0, rstat := 0 }
  /-- Without `U_CLR` a latch is held. -/
  latchHeld : (∀ x ∈ l, x.2 ≠ .uClr) → s.pending = true → t.pending = true
  /-- After the last `U_CLR` it is down. -/
  latchCleared : LastClears l → t.pending = false

/-- What no alarm μop writes. -/
theorem performedAll_frame (hl : is ⊆ alarmUops) (s : State) : ∃ c p n e a h q, performedAll is s = { s with
    compare := c, pending := p, near := n, ie := e, astate := a, hist := h, seq := q } := by
  induction is generalizing s with
  | nil => exact ⟨_, _, _, _, _, _, _, rfl⟩
  | cons i is ih =>
    obtain ⟨hi, his⟩ := List.cons_subset.1 hl
    obtain ⟨_, _, _, _, _, _, e⟩ := performed_frame hi { s with seq := s.seq.tail }
    obtain ⟨c, p, n, e', a, h, q, e''⟩ := ih his (performed i { s with seq := s.seq.tail })
    exact ⟨c, p, n, e', a, h, q, e''.trans (by rw [e])⟩

theorem alarmCommand_spec (hi : i ∈ [.start, .stop, .set]) (c : Config) :
    i.isCommand = true ∧ i.code ≠ 0x01 ∧ i.code ≠ 0x08 ∧ sequenceOf c i ⊆ alarmUops := by
  simp only [List.mem_cons, List.not_mem_nil, or_false] at hi
  rcases hi with rfl | rfl | rfl <;> exact ⟨rfl, by decide, by decide, by simp [sequenceOf, alarmUops]⟩

/-- START, STOP and SET as a whole, with ticks anywhere between their moves. -/
theorem run_alarmCommand (x : Nat × Instr) (l : List (Nat × Instr)) {moves : List Move} (h : Inv s)
    (hw : s.cfg.wf = true) (hready : ready s = true) (hd : s.initDone = true) (hi : i ∈ [.start, .stop, .set])
    (hl : sequenceOf s.cfg i = (x :: l).map Prod.snd) (hmoves : moves = cmdWrite s i :: tickedMoves (x :: l)) :
    ∃ t, runSteps moves.length (withMoves moves s) = .next t ∧ AlarmCommand i (x :: l) s t := by
  subst hmoves
  obtain ⟨hh, hf⟩ := ready_iff.1 hready
  obtain ⟨_, hctx⟩ := held_eq_false.1 hh
  obtain ⟨hcmd, hinit, hcbret, halarm⟩ := alarmCommand_spec hi s.cfg
  have hload := run_load (tickedMoves (x :: l)) hready hd hcmd hinit hcbret
  rw [hl] at hload halarm
  obtain ⟨t, hrun, hend, hnil, hsched⟩ := run_alarmUops (rest := s.schedule) x l hw h.counterFits
    (h.runIsInit.trans hd) halarm rfl rfl (s := loadSequence i.code ((x :: l).map Prod.snd)
      { s with schedule := tickedMoves (x :: l) ++ s.schedule })
  have hloaded : QuietRel (loadSequence i.code ((x :: l).map Prod.snd) s) (loadSequence i.code ((x :: l).map Prod.snd)
      { s with schedule := tickedMoves (x :: l) ++ s.schedule }) := ⟨rfl, rfl⟩
  have hq := (performedAll_quiet halarm hloaded).trans hend.quiet
  obtain ⟨_, _, _, _, _, _, _, e⟩ := performedAll_frame halarm (loadSequence i.code ((x :: l).map Prod.snd) s)
  have hseqCtx : t.seqCtx = s.ctx := by rw [hq.seqCtx, e]; rfl
  have hbank : bankOf t s.ctx = bankOf s s.ctx := by
    rw [bankOf_eq_ite, bankOf_eq_ite, hq.normal, hq.callback, e]; rfl
  refine ⟨finishUop t, ?_, ?_⟩
  · rw [List.length_cons, Nat.add_comm]
    exact runSteps_trans hload hrun
  · exact {
      compare := (finishUop_compare t).trans hq.compare
      ie := (finishUop_ie t).trans hq.ie
      astate := (finishUop_astate t).trans hq.astate
      seq := (finishUop_seq t).trans hnil
      ctx := (finishUop_ctx t).trans (by rw [hq.ctx, e]; rfl)
      fault := (finishUop_fault t).trans (by rw [hq.fault, e]; exact hf)
      counter := (finishUop_counter t).trans hend.counter
      schedule := (finishUop_schedule t).trans hsched
      bank := by rw [bankOf_finishUop hnil hseqCtx hctx, hbank, hq.result, e]; rfl
      latchHeld := fun hclr hp => (finishUop_pending t).trans (hend.latchHeld hclr hp)
      latchCleared := fun hclr => (finishUop_pending t).trans (hend.latchCleared hclr) }

end AlarmSequences

/-- Settles O43: START is its compare write, U_CLR, U_IE1 and U_ARMED. -/
theorem startArmsWhateverTheTicks : Obligations.StartArmsWhateverTheTicks := by
  intro s n0 n1 n2 n3 h hw hready hd moves
  obtain ⟨t, hrun, hend⟩ := run_alarmCommand (n0, .uArmArg) [(n1, .uClr), (n2, .uIe1), (n3, .uArmed)] (i := .start)
    (moves := moves) h hw hready hd (by simp) rfl (by simp [moves])
  exact ⟨t, hrun, hend.compare, hend.ie, hend.astate, hend.seq, hend.ctx, hend.fault,
    hend.counter.trans (by simp [Nat.add_assoc]), hend.schedule, hend.bank,
    fun h2 h3 => hend.latchCleared (by simp [LastClears, h2, h3])⟩

/-- Settles O44: STOP is U_IE0, U_CLR and U_DISARMED. -/
theorem stopDisarmsWhateverTheTicks : Obligations.StopDisarmsWhateverTheTicks := by
  intro s n0 n1 n2 h hw hready hd moves
  obtain ⟨t, hrun, hend⟩ := run_alarmCommand (n0, .uIe0) [(n1, .uClr), (n2, .uDisarmed)] (i := .stop) (moves := moves)
    h hw hready hd (by simp) rfl (by simp [moves])
  exact ⟨t, hrun, hend.compare, hend.ie, hend.astate, hend.seq, hend.ctx, hend.fault,
    hend.counter.trans (by simp [Nat.add_assoc]), hend.schedule, hend.bank,
    fun h2 => hend.latchCleared (by simp [LastClears, h2])⟩

/-- Settles O45: SET is one compare write. -/
theorem setReprogramsOnly : Obligations.SetReprogramsOnly := by
  intro s n h hw hready hd moves
  obtain ⟨t, hrun, hend⟩ := run_alarmCommand (n, .uArmArg) [] (i := .set) (moves := moves) h hw hready hd (by simp) rfl
    (by simp [moves])
  exact ⟨t, hrun, hend.compare, hend.ie, hend.astate, hend.seq, hend.ctx, hend.fault, by simpa using hend.counter,
    hend.latchHeld (by simp), hend.bank⟩

end Sys2Proof.Proofs
end

section
/-!
The queries GET, IS_ACTIVE and GET_COUNTER with no tick inside them (spec/41_alarm_controller.md R86 to R88,
spec/43_facade.md R109): each loads one or two reading μops, the last of which responds.
-/

namespace Sys2Proof.Proofs

open Sys2Proof.Machine Sys2Proof.Safety Sys2Proof.Laws

/-- The command `i` and `k` sequencer moves answer `v` in the bank of CTX, leave CAPTURE at `cap`, and change no register
but the bank and the sequencer's own. -/
def Answers (s : State) (i : Instr) (k : Nat) (v cap : Word) : Prop :=
  ∃ t : State, runSteps (k + 1) (withMoves (cmdWrite s i :: List.replicate k .sequencer) s) = .next t ∧
    bankOf t s.ctx = { arg := (bankOf s s.ctx).arg, rval := v, rstat := 0 } ∧
    t = { s with
      normal := t.normal, callback := t.callback, capture := cap, seqArg := t.seqArg, seqCtx := s.ctx,
      seqOpc := i.code, result := v } ∧
    (s.ctx = .normal → t.callback = s.callback) ∧ (s.ctx = .callback → t.normal = s.normal)

section Queries

variable {s t : State} {i u : Instr} {k : Nat} {v cap : Word} {rest : List Move} {q : List Byte}

/-- A scheduled sequencer move on a μop of the live backend that raises nothing (R105). -/
theorem run_performs (h : s.schedule = .sequencer :: rest) (hq : s.seq = u.code :: q) (hu : u.isUop = true)
    (hav : uopAvailable s.cfg u = true) (hp : performs u { s with schedule := rest, seq := q } = .ok t) :
    runSteps 1 s = .next (finishUop t) :=
  (run_head s rest u q h hq hu).trans (exec_performs hu hav hp)

/-- The response of the last μop is the answer (R106). -/
theorem answers_of_run (hready : ready s = true)
    (hrun : runSteps (k + 1) (withMoves (cmdWrite s i :: List.replicate k .sequencer) s) =
      .next (finishUop { loadSequence i.code [] s with capture := cap, result := v })) : Answers s i k v cap := by
  obtain ⟨hh, _⟩ := ready_iff.1 hready
  obtain ⟨hq, hctx⟩ := held_eq_false.1 hh
  obtain ⟨hnormal, hcallback⟩ := finishUop_bank { loadSequence i.code [] s with capture := cap, result := v }
  obtain ⟨_, _, e⟩ := finishUop_frame { loadSequence i.code [] s with capture := cap, result := v }
  refine ⟨_, hrun, bankOf_finishUop rfl rfl hctx, ?_, fun hc => hcallback (by simp [hc]), fun hc => hnormal (by simp [hc])⟩
  rw [e, hq]; rfl

/-- A query of one μop that reads a register into RESULT. -/
theorem answers_of_read (hready : ready s = true) (hd : s.initDone = true) (hi : i.isCommand = true)
    (hinit : i.code ≠ 0x01) (hcbret : i.code ≠ 0x08) (hl : sequenceOf s.cfg i = [u]) (hu : u.isUop = true)
    (hav : uopAvailable s.cfg u = true)
    (hp : performs u (loadSequence i.code [] s) = .ok { loadSequence i.code [] s with result := v }) :
    Answers s i 1 v s.capture := by
  have hload := run_load [.sequencer] hready hd hi hinit hcbret
  rw [hl] at hload
  exact answers_of_run hready (runSteps_trans hload (run_performs rfl rfl hu hav hp))

/-- On CC the count is captured and then read (R67, R68, R109). -/
theorem answers_getCounter_cc (hready : ready s = true) (hd : s.initDone = true) (hb : s.cfg.backendSel = 1) :
    Answers s .getCounter 2 s.counter s.counter := by
  have hload := run_load (i := .getCounter) [.sequencer, .sequencer] hready hd rfl (by decide) (by decide)
  rw [show sequenceOf s.cfg .getCounter = [.uCapture, .uReadCap] by simp [sequenceOf, hb]] at hload
  have hcapture := run_performs (u := .uCapture) (s := loadSequence Instr.getCounter.code [.uCapture, .uReadCap]
    { s with schedule := [.sequencer, .sequencer] ++ s.schedule }) rfl rfl rfl (beq_iff_eq.2 hb) rfl
  rw [finishUop, if_neg (by simp)] at hcapture
  refine answers_of_run hready (runSteps_trans (runSteps_trans hload hcapture) ?_)
  exact run_performs (u := .uReadCap) rfl rfl rfl (beq_iff_eq.2 hb) rfl

/-- After INIT the backend is one of the two (R93). -/
theorem backend_of_initDone (h : Inv s) (hd : s.initDone = true) : s.cfg.backendSel = 0 ∨ s.cfg.backendSel = 1 := by
  have hchecked := h.initChecked hd
  unfold validateConfig at hchecked
  split at hchecked
  · cases hchecked
  · next hsel => tauto

/-- IS_ACTIVE reads the enable on RTC and the shadow on CC, which agree where no sequence runs (R87, R88). -/
theorem answers_isActive (h : Inv s) (hready : ready s = true) (hd : s.initDone = true) :
    Answers s .isActive 1 (if s.ie = true then 1 else 0) s.capture := by
  obtain ⟨hh, _⟩ := ready_iff.1 hready
  obtain ⟨hq, _⟩ := held_eq_false.1 hh
  rcases backend_of_initDone h hd with hb | hb
  · exact answers_of_read (u := .uQie) hready hd rfl (by decide) (by decide) (if_pos hb) rfl (beq_iff_eq.2 hb) rfl
  · have hl : sequenceOf s.cfg .isActive = [.uQshadow] := if_neg (by simp [hb])
    have hshadow : boolWord (decide (s.astate = .armed)) = boolWord s.ie :=
      congrArg boolWord (Bool.eq_iff_iff.2 (decide_eq_true_iff.trans (enable_iff_armed h hq).symm))
    change Answers s .isActive 1 (boolWord s.ie) s.capture
    rw [← hshadow]
    exact answers_of_read hready hd rfl (by decide) (by decide) hl rfl (beq_iff_eq.2 hb) rfl

end Queries

/-- Settles O46: the four queries, GET and GET_COUNTER on RTC by one read. -/
theorem queriesAnswerAndChangeNothing : Obligations.QueriesAnswerAndChangeNothing := by
  intro s h hready hd answers
  refine ⟨?_, answers_isActive h hready hd, fun hb => ?_, answers_getCounter_cc hready hd⟩
  · exact answers_of_read (u := .uRdcmp) hready hd rfl (by decide) (by decide) rfl rfl rfl rfl
  · exact answers_of_read (u := .uReadCnt) hready hd rfl (by decide) (by decide) (if_pos hb) rfl (beq_iff_eq.2 hb) rfl

end Sys2Proof.Proofs
end

section
/-!
The periodic re-arm law (spec/42_mode_selector.md R99, R101): every step of a path on which no START, SET or STOP is issued
either leaves the alarm registers and the notifications as they were, or is the one re-arm or the one notification of the
service. Between the two a notification is owed, which makes the law one that every single step keeps.
-/

namespace Sys2Proof.Proofs

open Sys2Proof.Machine Sys2Proof.Safety Sys2Proof.Laws

/-- The μops, `U_ARM_PER` apart, that write COMPARE, IE or ASTATE (R70, R74, R75, R81, R82, R108). -/
def alarmWriters : List Instr := [.uInit, .uArmArg, .uIe1, .uIe0, .uArmed, .uDisarmed]

/-- None of them is left in SEQ. -/
def NoWriters (s : State) : Prop := ∀ c ∈ s.seq, c ∉ codes alarmWriters

/-- 1 between the re-arm of a service and its notification, else 0. -/
def owedNotify (s : State) : Nat := if s.seq = codes [.uNotify] then 1 else 0

/-- From `s` to `t` the alarm registers and the number of notifications are kept. -/
structure AlarmKept (s t : State) : Prop where
  /-- The parameters. -/
  cfg : t.cfg = s.cfg
  /-- `INIT_DONE`. -/
  initDone : t.initDone = s.initDone
  /-- The deadline. -/
  compare : t.compare = s.compare
  /-- The enable. -/
  ie : t.ie = s.ie
  /-- AlarmState. -/
  astate : t.astate = s.astate
  /-- The notifications. -/
  notified : notifyCount t.hist = notifyCount s.hist

/-- From `s` to `t` the deadline has advanced by `n` periods, for `n` notifications given or owed, and nothing else of the
alarm has changed. -/
structure Rearms (n : Nat) (s t : State) : Prop where
  /-- The parameters. -/
  cfg : t.cfg = s.cfg
  /-- `INIT_DONE`. -/
  initDone : t.initDone = s.initDone
  /-- The deadline. -/
  compare : t.compare.toNat = (s.compare.toNat + n * s.cfg.period.toNat) % 2 ^ width s.cfg
  /-- The enable. -/
  ie : t.ie = s.ie
  /-- AlarmState. -/
  astate : t.astate = s.astate
  /-- The notifications, with the one owed. -/
  notified : notifyCount t.hist + owedNotify t = notifyCount s.hist + owedNotify s + n

section PeriodicRearm

variable {s t u : State} {i : Instr} {q : List Byte} {n m : Nat}

theorem Rearms.trans (h : Rearms n s t) (h' : Rearms m t u) : Rearms (n + m) s u where
  cfg := h'.cfg.trans h.cfg
  initDone := h'.initDone.trans h.initDone
  compare := by rw [h'.compare, h.compare, h.cfg, Nat.mod_add_mod, Nat.add_assoc, ← Nat.add_mul]
  ie := h'.ie.trans h.ie
  astate := h'.astate.trans h.astate
  notified := by rw [h'.notified, h.notified, Nat.add_assoc]

theorem AlarmKept.rearms (h : AlarmKept s t) (hinv : Inv s) (howed : owedNotify t = owedNotify s) : Rearms 0 s t where
  cfg := h.cfg
  initDone := h.initDone
  compare := by rw [h.compare, Nat.zero_mul, Nat.add_zero, Nat.mod_eq_of_lt hinv.compareFits]
  ie := h.ie
  astate := h.astate
  notified := by rw [h.notified, howed, Nat.add_zero]

theorem owedNotify_eq_zero (hq : s.seq ≠ codes [.uNotify]) : owedNotify s = 0 := if_neg hq

theorem owedNotify_eq_of_seq (hq : t.seq = s.seq) : owedNotify t = owedNotify s := by rw [owedNotify, hq, owedNotify]

/-! What is left of SEQ. -/

theorem raiseFault_seq (c : Byte) (j : BitVec 24) (s : State) :
    (raiseFault c j s).seq = s.seq ∨ (raiseFault c j s).seq = [] := by
  unfold raiseFault; split
  · exact .inr rfl
  · exact .inl rfl

/-- No μop writes SEQ; the sequencer has popped it before (R105). -/
theorem performs_seq (hp : performs i s = .ok t) : t.seq = s.seq := by
  cases i with
  | uInit =>
    simp only [performs] at hp
    split at hp
    · cases hp
    · cases hp; rfl
  | uInfo =>
    simp only [performs] at hp
    split at hp
    · cases hp; rfl
    · cases hp
  | _ => cases hp; rfl

theorem uop_seq (hu : i.isUop = true) (h : exec i s = .next t) : t.seq = s.seq ∨ t.seq = [] := by
  rcases exec_uop_cases hu h with ⟨_, rfl⟩ | ⟨_, r, hp, rfl⟩ | ⟨_, c, j, _, rfl⟩
  · exact raiseFault_seq _ _ s
  · exact .inl ((finishUop_seq r).trans (performs_seq hp))
  · exact raiseFault_seq _ _ s

theorem rejectCommand_seq (r : Reject) (hq : s.seq = []) : (rejectCommand r s).seq = [] := by
  unfold rejectCommand; split
  · exact hq
  · exact (raiseFault_seq _ _ (enterIssue s)).elim (·.trans hq) id

theorem badAccess_seq (j : BitVec 24) (hq : s.seq = []) : (badAccess j s).seq = [] := by
  unfold badAccess; split
  · exact (raiseFault_seq _ _ (enterIssue s)).elim (·.trans hq) id
  · exact hq

/-! What a step does to the alarm. -/

/-- `U_NOTIFY` alone notifies (R123). -/
theorem uop_notified (hu : i.isUop = true) (hi : i ≠ .uNotify) (h : exec i s = .next t) :
    notifyCount t.hist = notifyCount s.hist := by
  rcases exec_uop_cases hu h with ⟨_, rfl⟩ | ⟨_, r, hp, rfl⟩ | ⟨_, c, j, _, rfl⟩
  · rw [raiseFault_hist]
  · rw [finishUop_hist]
    cases i with
    | uNotify => exact absurd rfl hi
    | uArmArg | uArmPer => cases hp; exact armCompare_notified _ s
    | uInit =>
      simp only [performs] at hp
      split at hp
      · cases hp
      · cases hp; rfl
    | uInfo =>
      simp only [performs] at hp
      split at hp
      · cases hp; rfl
      · cases hp
    | _ => cases hp; rfl
  · rw [raiseFault_hist]

theorem uop_keeps_alarm (hu : i.isUop = true) (hi : i ∉ alarmWriters) (harm : i ≠ .uArmPer) (hnot : i ≠ .uNotify)
    (h : exec i s = .next t) : AlarmKept s t := by
  obtain ⟨⟨hcfg, _⟩, hcompare, _, hie, hastate, hinit, _⟩ := uop_frame hu h
  simp only [alarmWriters, List.mem_cons, List.not_mem_nil, or_false, not_or] at hi
  exact {
    cfg := hcfg
    initDone := by by_contra hne; exact absurd (hinit (.inr hne)) (by simp [hi])
    compare := by by_contra hne; exact absurd (hcompare hne) (by simp [hi, harm])
    ie := by by_contra hne; exact absurd (hie hne) (by simp [hi])
    astate := by by_contra hne; exact absurd (hastate hne) (by simp [hi])
    notified := uop_notified hu hnot h }

/-- A command's write loads its sequence, or leaves SEQ empty (R103). -/
theorem command_keeps_alarm (hi : i.isCommand = true) (hh : held s = false) (h : exec i s = .next t) :
    AlarmKept s t ∧ (t.seq = s.seq ∨ dispatchFault i.code s = none ∧ t.seq = codes (sequenceOf s.cfg i)) := by
  obtain ⟨hq, _⟩ := held_eq_false.1 hh
  refine ⟨?_, ?_⟩
  · obtain ⟨_, _, _, _, _, _, _, _, _, rfl⟩ := command_frame hi hh h
    exact ⟨rfl, rfl, rfl, rfl, rfl, rfl⟩
  · rcases exec_command_cases hi hh h with ⟨_, rfl⟩ | ⟨_, c, j, _, rfl⟩ | ⟨_, hd, rfl⟩
    · exact .inl rfl
    · exact .inl hq.symm
    · exact .inr ⟨hd, rfl⟩

/-- A step runs a μop, or it keeps the alarm and leaves SEQ as it is, unless an acceptance or a command loads it. -/
theorem step_uop_or_keeps_alarm (h : step s = .next t) :
    (∃ i q x d, i.isUop = true ∧ s.seq = i.code :: q ∧ exec i { s with seq := q, schedule := x, draws := d } = .next t) ∨
    (AlarmKept s t ∧ (t.seq = s.seq ∨ s.seq = [] ∧ (t.seq = codes (serviceSequence s.cfg) ∨
      ∃ a w i, (takeMove s).1 = .host a ∧ portAction s.cfg a = .command w ∧ decodeCmd w = .ok i ∧ i.isCommand = true ∧
        dispatchFault i.code s = none ∧ t.seq = codes (sequenceOf s.cfg i)))) := by
  obtain ⟨x, d, hcases⟩ := step_inversion h
  rcases hcases with ⟨_, rfl⟩ | ⟨_, ⟨_, rfl⟩ | rfl | ⟨i, q, hu, hq, he⟩ | ⟨hh, a, w, i, hm, hp, hdec, hi, he⟩ |
    ⟨hh, _, r, _, rfl⟩ | ⟨hh, ⟨v, rfl⟩ | ⟨r, rfl⟩ | ⟨j, rfl⟩⟩⟩
  · exact .inr ⟨⟨by simp, by simp, by simp, by simp, by simp, tick_notified _⟩, .inl (by simp)⟩
  · refine .inr ⟨by constructor <;> simp, ?_⟩
    rcases accept_cases { s with schedule := x, draws := d } with he | ⟨ha, he⟩ <;> rw [he]
    · exact .inl rfl
    · obtain ⟨_, _, _, hq, _⟩ := acceptEnabled_iff.1 ha
      exact .inr ⟨hq, .inl rfl⟩
  · exact .inr ⟨⟨rfl, rfl, rfl, rfl, rfl, rfl⟩, .inl rfl⟩
  · exact .inl ⟨i, q, x, d, hu, hq, he⟩
  · obtain ⟨⟨hcfg, hdone, hcompare, hie, hastate, hnotified⟩, hseq⟩ :=
      command_keeps_alarm (s := { s with schedule := x, draws := d }) hi hh he
    refine .inr ⟨⟨hcfg, hdone, hcompare, hie, hastate, hnotified⟩, hseq.imp_right fun ⟨hd, hload⟩ => ?_⟩
    exact ⟨(held_eq_false.1 hh).1, .inr ⟨a, w, i, hm, hp, hdec, hi, hd, hload⟩⟩
  · have hq := (held_eq_false.1 hh).1
    refine .inr ⟨by constructor <;> simp, .inl ?_⟩
    exact (rejectCommand_seq (s := { s with schedule := x, draws := d }) r hq).trans hq.symm
  · exact .inr ⟨by constructor <;> simp, .inl rfl⟩
  · exact .inr ⟨by constructor <;> simp, .inl rfl⟩
  · have hq := (held_eq_false.1 hh).1
    refine .inr ⟨by constructor <;> simp, .inl ?_⟩
    exact (badAccess_seq (s := { s with schedule := x, draws := d }) j hq).trans hq.symm

/-! PeriodicTick mode: one step, and a path. -/

section UopRearms

variable {x : List Move} {d : Nat}

/-- The re-arm advances the deadline by one period, for the notification that it owes (R71, R99). -/
theorem armPer_rearms (hw : s.cfg.wf = true) (hq : s.seq = codes [.uArmPer, .uNotify])
    (he : exec .uArmPer { s with seq := codes [.uNotify], schedule := x, draws := d } = .next t) : Rearms 1 s t := by
  rw [exec_performs rfl rfl rfl] at he
  cases he
  refine ⟨by simp, by simp, ?_, by simp, by simp, ?_⟩
  · rw [Nat.one_mul, finishUop_compare, armCompare_compare]
    exact addW_toNat (width_range hw).2 _ _
  · rw [finishUop_hist, armCompare_notified, owedNotify_eq_zero (s := s) (by rw [hq]; decide)]
    simp [owedNotify]

/-- The notification is the one owed (R123). -/
theorem notify_rearms (h : Inv s) (hq : s.seq = codes [.uNotify])
    (he : exec .uNotify { s with seq := [], schedule := x, draws := d } = .next t) : Rearms 0 s t := by
  rw [exec_performs rfl rfl rfl] at he
  cases he
  refine ⟨by simp, by simp, by simp [Nat.mod_eq_of_lt h.compareFits], by simp, by simp, ?_⟩
  rw [finishUop_hist, enterCallback_hist, owedNotify_eq_zero (by simp [codes])]
  simp [owedNotify, hq, notifyCount]

/-- Every other μop of the sequences left keeps the alarm, and neither begins nor ends the debt. -/
theorem otherUop_rearms (h : Inv s) (hmode : s.cfg.modeSel = 0) (hn : NoWriters s) (hu : i.isUop = true)
    (harm : i ≠ .uArmPer) (hnot : i ≠ .uNotify) (hq : s.seq = i.code :: q)
    (he : exec i { s with seq := q, schedule := x, draws := d } = .next t) : Rearms 0 s t := by
  have hwriter : i ∉ alarmWriters := fun hi => hn i.code (hq ▸ List.mem_cons_self) (List.mem_map_of_mem hi)
  obtain ⟨hcfg, hdone, hcompare, hie, hastate, hnotified⟩ := uop_keeps_alarm hu hwriter harm hnot he
  have hlast : q ≠ codes [.uNotify] := by
    rintro rfl
    simpa [codes, Instr.code, hmode, harm] using (sequence_cases h hq).2
  have howed : owedNotify s = 0 := owedNotify_eq_zero fun hs => hnot (code_injective (List.cons.inj (hq ▸ hs)).1)
  have howed' : owedNotify t = 0 := by
    rcases uop_seq hu he with ht | ht
    · exact owedNotify_eq_zero (by rwa [ht])
    · exact owedNotify_eq_zero (by rw [ht]; decide)
  exact AlarmKept.rearms ⟨hcfg, hdone, hcompare, hie, hastate, hnotified⟩ h (howed'.trans howed.symm)

/-- A μop of the sequences left re-arms, or notifies, or keeps the alarm. -/
theorem uop_rearms (h : Inv s) (hw : s.cfg.wf = true) (hmode : s.cfg.modeSel = 0) (hn : NoWriters s)
    (hu : i.isUop = true) (hq : s.seq = i.code :: q)
    (he : exec i { s with seq := q, schedule := x, draws := d } = .next t) : ∃ n, Rearms n s t := by
  obtain ⟨_, hshape⟩ := sequence_cases h hq
  by_cases harm : i = .uArmPer
  · subst harm
    obtain ⟨_, _, rfl⟩ : s.ctx = .service ∧ s.seqCtx = .service ∧ q = [0x8E] := by simpa [hmode] using hshape
    exact ⟨1, armPer_rearms hw hq he⟩
  by_cases hnot : i = .uNotify
  · subst hnot
    obtain ⟨_, _, rfl⟩ : s.ctx = .service ∧ s.seqCtx = .service ∧ q = [] := by simpa [hmode] using hshape
    exact ⟨0, notify_rearms h hq he⟩
  · exact ⟨0, otherUop_rearms h hmode hn hu harm hnot hq he⟩

end UopRearms

/-- What a command loads after INIT, unless it is START, SET or STOP, neither notifies nor writes COMPARE, IE or ASTATE
(R61). -/
theorem sequenceOf_keeps_alarm (c : Config) (hinit : i ≠ .init) (hi : i ∉ [.start, .set, .stop]) :
    ∀ b ∈ codes (sequenceOf c i), b ∉ codes (.uNotify :: alarmWriters) := by
  cases i with
  | init => exact absurd rfl hinit
  | start | set | stop => exact absurd hi (by decide)
  | getCounter | isActive => simp only [sequenceOf]; split <;> decide
  | _ => simp only [sequenceOf]; decide

theorem command_allowed {a : Access} {w : Word} (hp : portAction s.cfg a = .command w) (hd : decodeCmd w = .ok i)
    (hok : noAlarmCommand s (.host a) = true) : i ∉ [.start, .set, .stop] := by
  simp only [noAlarmCommand, hp, hd] at hok
  intro hi
  simp only [List.mem_cons, List.not_mem_nil, or_false] at hi
  rcases hi with rfl | rfl | rfl <;> cases hok

/-- One step with no START, SET or STOP. -/
theorem step_rearms (h : Inv s) (hw : s.cfg.wf = true) (hmode : s.cfg.modeSel = 0) (hdone : s.initDone = true)
    (hn : NoWriters s) (hok : noAlarmCommand s (takeMove s).1 = true) (hstep : step s = .next t) :
    (∃ n, Rearms n s t) ∧ NoWriters t := by
  rcases step_uop_or_keeps_alarm hstep with ⟨i, q, x, d, hu, hq, he⟩ | ⟨hkept, hseq | ⟨hq, hload⟩⟩
  · refine ⟨uop_rearms h hw hmode hn hu hq he, ?_⟩
    rcases uop_seq hu he with ht | ht <;> rw [NoWriters, ht]
    · exact fun c hc => hn c (hq ▸ List.mem_cons_of_mem _ hc)
    · exact fun c hc => absurd hc List.not_mem_nil
  · exact ⟨⟨0, hkept.rearms h (owedNotify_eq_of_seq hseq)⟩, by rwa [NoWriters, hseq]⟩
  · obtain ⟨hlast, hfree⟩ : t.seq ≠ codes [.uNotify] ∧ NoWriters t := by
      rcases hload with ht | ⟨a, w, i, hm, hp, hdec, hi, hd, ht⟩
      · rw [NoWriters, ht, serviceSequence, if_pos hmode]; decide
      · have hinit : i ≠ .init := by
          rintro rfl
          simp [dispatchFault, Instr.code, hdone] at hd
        have hloaded := sequenceOf_keeps_alarm s.cfg hinit (command_allowed hp hdec (hm ▸ hok))
        rw [← ht] at hloaded
        exact ⟨fun hs => hloaded _ (hs ▸ List.mem_singleton_self _) List.mem_cons_self,
          fun c hc hw => hloaded c hc (List.mem_cons_of_mem _ hw)⟩
    have hidle : s.seq ≠ codes [.uNotify] := by rw [hq]; decide
    exact ⟨⟨0, hkept.rearms h ((owedNotify_eq_zero hlast).trans (owedNotify_eq_zero hidle).symm)⟩, hfree⟩

/-- Any path with no START, SET or STOP, from a state with nothing of them left in SEQ. -/
theorem path_rearms (h : Inv s) (hw : s.cfg.wf = true) (hmode : s.cfg.modeSel = 0) (hdone : s.initDone = true)
    (hn : NoWriters s) (hpath : Path noAlarmCommand s t) : (∃ n, Rearms n s t) ∧ NoWriters t := by
  induction hpath with
  | refl => exact ⟨⟨0, AlarmKept.rearms ⟨rfl, rfl, rfl, rfl, rfl, rfl⟩ h rfl⟩, hn⟩
  | snoc hpath hok hstep ih =>
    obtain ⟨⟨n, hrearms⟩, hn⟩ := ih
    obtain ⟨⟨m, hnext⟩, hn⟩ := step_rearms (inv_of_path h hpath) (by rwa [hrearms.cfg]) (by rwa [hrearms.cfg])
      (hrearms.initDone.trans hdone) hn hok hstep
    exact ⟨⟨n + m, hrearms.trans hnext⟩, hn⟩

/-- Outside the service no notification is owed. -/
theorem owedNotify_outside_service (h : Inv s) (hctx : s.ctx ≠ .service) : owedNotify s = 0 :=
  owedNotify_eq_zero fun hq => by simpa [hctx] using (sequence_cases (i := .uNotify) h hq).2

end PeriodicRearm

/-- Settles O57: by induction over the path, with the notification owed between a re-arm and its NOTIFY counted in. -/
theorem periodicRearmLaw : Obligations.PeriodicRearmLaw := by
  intro s t h hw hmode hq hdone hpath hctx
  have hidle : s.ctx ≠ .service := fun hs => h.serviceBusy hs hq
  have hn : NoWriters s := by rw [NoWriters, hq]; exact fun c hc => absurd hc List.not_mem_nil
  obtain ⟨⟨n, hrearms⟩, _⟩ := path_rearms h hw hmode hdone hn hpath
  have hnotified := hrearms.notified
  rw [owedNotify_outside_service (inv_of_path h hpath) hctx, owedNotify_outside_service h hidle] at hnotified
  refine ⟨n, hnotified, ?_, hrearms.ie, hrearms.astate⟩
  rw [← hrearms.compare, BitVec.ofNat_toNat, BitVec.setWidth_eq]

end Sys2Proof.Proofs
end

section
/-!
U_INIT on a configuration that fails (spec/42_mode_selector.md R92 to R96): the first failing check, in the order backend,
mode, floor, period, is the fault raised.
-/

namespace Sys2Proof.Proofs

open Sys2Proof.Machine Sys2Proof.Safety Sys2Proof.Laws

section InitRejects

variable {c : Config} {s : State} {i : Instr} {code : Byte} {info : BitVec 24}

/-- A μop of the live backend that raises a fault. -/
theorem exec_raises (hu : i.isUop = true) (hav : uopAvailable s.cfg i = true) (hp : performs i s = .error (code, info)) :
    exec i s = .next (faulted code info s) := by
  rw [exec_uop hu, ← raiseFault_eq_faulted]
  simp [runUop, hav, hp]

/-- U_INIT raises what the checks of the configuration answer (R92). -/
theorem exec_uInit_rejects (h : validateConfig s.cfg = some (code, info)) : exec .uInit s = .next (faulted code info s) :=
  exec_raises rfl rfl (by simp only [performs, h])

/-- The info of a floor or period fault is the value's low 24 bits (R95, R96). -/
theorem low24_eq_ofNat (v : Word) : v.extractLsb' 0 24 = BitVec.ofNat 24 v.toNat := by
  simp [BitVec.extractLsb']

theorem twoBit_lt_two_iff (x : BitVec 2) : x.toNat < 2 ↔ x = 0 ∨ x = 1 := by revert x; decide

/-! The four checks, each after those before it have passed. -/

theorem validateConfig_backend (hb : ¬ c.backendSel.toNat < 2) :
    validateConfig c = some (0x01, BitVec.ofNat 24 c.backendSel.toNat) := by
  rw [twoBit_lt_two_iff, not_or] at hb
  rw [validateConfig, if_pos hb, BitVec.ofNat_toNat]

theorem validateConfig_mode (hb : c.backendSel.toNat < 2) (hm : ¬ c.modeSel.toNat < 2) :
    validateConfig c = some (0x02, BitVec.ofNat 24 c.modeSel.toNat) := by
  rw [twoBit_lt_two_iff] at hb
  rw [twoBit_lt_two_iff, not_or] at hm
  rw [validateConfig, if_neg (by tauto), if_pos hm, BitVec.ofNat_toNat]

theorem validateConfig_floor (hb : c.backendSel.toNat < 2) (hm : c.modeSel = 1)
    (hf : c.lookahead.toNat < (floorOf c).toNat) :
    validateConfig c = some (0x03, BitVec.ofNat 24 c.lookahead.toNat) := by
  rw [twoBit_lt_two_iff] at hb
  rw [validateConfig, if_neg (by tauto), if_neg (by tauto), if_pos ⟨hm, hf⟩, low24_eq_ofNat]

theorem validateConfig_period (hb : c.backendSel.toNat < 2) (hm : c.modeSel = 0)
    (hp : c.period = 0 ∨ 2 ^ width c ≤ c.period.toNat) :
    validateConfig c = some (0x04, BitVec.ofNat 24 c.period.toNat) := by
  rw [twoBit_lt_two_iff] at hb
  rw [validateConfig, if_neg (by tauto), if_neg (by tauto), if_neg (by simp [hm]), if_pos ⟨hm, hp⟩, low24_eq_ofNat]

end InitRejects

/-- Settles O42: one check of the configuration each. -/
theorem initRejectsIllegalConfiguration : Obligations.InitRejectsIllegalConfiguration := by
  intro s floor hfloor reject
  subst hfloor
  exact ⟨fun hb => exec_uInit_rejects (validateConfig_backend hb.not_gt),
    fun hb hm => exec_uInit_rejects (validateConfig_mode hb hm.not_gt),
    fun hb hm hf => exec_uInit_rejects (validateConfig_floor hb hm hf),
    fun hb hm hp => exec_uInit_rejects (validateConfig_period hb hm hp)⟩

end Sys2Proof.Proofs
end

section
/-!
The service as a whole (spec/42_mode_selector.md R99, R100, spec/60_exceptions.md R121 to R123), with moves of the counter
and of the acceptance before each μop: while it runs no second service starts, and what its μops write does not depend on
the ticks.
-/

namespace Sys2Proof.Proofs

open Sys2Proof.Machine Sys2Proof.Safety Sys2Proof.Laws

/-- The μops the two services are made of (R99, R100). -/
def serviceUops : List Instr := [.uClr, .uArmPer, .uIe0, .uDisarmed, .uNotify]

/-- Is the latch certain to be down after this μop and the moves before it, when `down` says so before them? `U_CLR` takes
it down; a tick may raise it, and so may a compare write with `P_WRITE_EQ_MATCH`. -/
def LatchDownAfter (c : Config) (down : Prop) (x : List Move × Instr) : Prop :=
  x.2 = .uClr ∨ down ∧ .tick ∉ x.1 ∧ (x.2 = .uArmPer → c.pWriteEqMatch = false)

/-- The same, after each μop of a list. -/
def LatchDown (c : Config) (down : Prop) (l : List (List Move × Instr)) : Prop := l.foldl (LatchDownAfter c) down

/-- From `s`, where it is accepted, to `t` the service of these μops has run, each after its moves. -/
structure Serviced (l : List (List Move × Instr)) (s t : State) : Prop where
  /-- What ticks do not write is what the μops make of it, ticks or none. -/
  quiet : QuietRel (performedAll (l.map Prod.snd) (enterService s)) t
  /-- The sequence has ended. -/
  seq : t.seq = []
  /-- It has notified once. -/
  notified : notifyCount t.hist = notifyCount s.hist + 1
  /-- The latch, where nothing can have raised it after `U_CLR`. -/
  latchDown : LatchDown s.cfg False l → t.pending = false
  /-- The scheduled moves are used up. -/
  schedule : t.schedule = s.schedule

section Service

variable {s t : State} {i : Instr} {q : List Byte} {ms rest : List Move} {is : List Instr} {l : List (List Move × Instr)}

theorem serviceUops_cases (hi : i ∈ serviceUops) :
    i = .uClr ∨ i = .uArmPer ∨ i = .uIe0 ∨ i = .uDisarmed ∨ i = .uNotify := by
  simpa [serviceUops] using hi

theorem serviceSequence_subset (c : Config) : serviceSequence c ⊆ serviceUops := by
  unfold serviceSequence; split <;> decide

theorem performs_service (hi : i ∈ serviceUops) (s : State) : performs i s = .ok (performed i s) := by
  rcases serviceUops_cases hi with rfl | rfl | rfl | rfl | rfl <;> rfl

theorem serviceUop_available (hi : i ∈ serviceUops) (c : Config) : i.isUop = true ∧ uopAvailable c i = true := by
  rcases serviceUops_cases hi with rfl | rfl | rfl | rfl | rfl <;> exact ⟨rfl, rfl⟩

/-- The registers a service μop may write (R71, R73, R75, R82, R123). -/
theorem serviceUop_frame (hi : i ∈ serviceUops) (s : State) : ∃ c p n e a x h, performed i s = { s with
    compare := c, pending := p, near := n, ie := e, astate := a, ctx := x, hist := h } := by
  rcases serviceUops_cases hi with rfl | rfl | rfl | rfl | rfl <;> exact ⟨_, _, _, _, _, _, _, rfl⟩

/-- A service μop reads nothing that ticks write into a register that they do not. -/
theorem serviceUop_quiet (hi : i ∈ serviceUops) (h : QuietRel s t) : QuietRel (performed i s) (performed i t) := by
  refine ⟨by rw [h.eq]; rcases serviceUops_cases hi with rfl | rfl | rfl | rfl | rfl <;> rfl, ?_⟩
  rcases serviceUops_cases hi with rfl | rfl | rfl | rfl | rfl
  · exact h.notified
  · exact (armCompare_notified _ t).trans (h.notified.trans (armCompare_notified _ s).symm)
  · exact h.notified
  · exact h.notified
  · simpa [performed, performs, notifyCount] using h.notified

theorem serviceUops_quiet (hl : is ⊆ serviceUops) (h : QuietRel s t) :
    QuietRel (performedAll is s) (performedAll is t) := by
  induction is generalizing s t with
  | nil => exact h
  | cons i is ih =>
    have hpop : QuietRel { s with seq := s.seq.tail } { t with seq := t.seq.tail } := ⟨by rw [h.eq], h.notified⟩
    obtain ⟨hi, his⟩ := List.cons_subset.1 hl
    exact ih his (serviceUop_quiet hi hpop)

/-- Each `U_NOTIFY` notifies once, and no other μop of the service does (R123). -/
theorem serviceUops_notified (hl : is ⊆ serviceUops) (s : State) :
    notifyCount (performedAll is s).hist = notifyCount s.hist + is.count .uNotify := by
  induction is generalizing s with
  | nil => rfl
  | cons i is ih =>
    obtain ⟨hi, his⟩ := List.cons_subset.1 hl
    have hone : notifyCount (performed i { s with seq := s.seq.tail }).hist =
        notifyCount s.hist + if i = .uNotify then 1 else 0 := by
      rcases serviceUops_cases hi with rfl | rfl | rfl | rfl | rfl
      · rfl
      · exact armCompare_notified _ { s with seq := s.seq.tail }
      · rfl
      · rfl
      · simp [performed, performs, notifyCount]
    refine (ih his (performed i { s with seq := s.seq.tail })).trans ?_
    rw [hone, List.count_cons, Nat.add_right_comm, Nat.add_assoc]
    simp only [beq_iff_eq]

theorem serviceSequence_notifies_once (c : Config) : (serviceSequence c).count .uNotify = 1 := by
  unfold serviceSequence; split <;> decide

/-- A μop of the service takes the latch down, or raises none but by a compare write of the count (R72, R73). -/
theorem serviceUop_latch (hi : i ∈ serviceUops)
    (h : i = .uClr ∨ s.pending = false ∧ (i = .uArmPer → s.cfg.pWriteEqMatch = false)) :
    (performed i s).pending = false := by
  rcases h with rfl | ⟨hp, hmatch⟩
  · rfl
  rcases serviceUops_cases hi with rfl | rfl | rfl | rfl | rfl
  · rfl
  · simp [performed, performs, armCompare, hp, hmatch rfl]
  all_goals exact hp

/-- Scheduled moves of the counter and the acceptance, then a sequencer move on a μop of the service, which does not
respond (R105, R106). -/
theorem run_serviceUop (hms : ticksAndAccepts ms = true) (hctx : s.seqCtx = .service) (hi : i ∈ serviceUops)
    (hq : s.seq = i.code :: q) (h : s.schedule = ms ++ .sequencer :: rest) :
    ∃ t, runSteps (ms.length + 1) s = .next t ∧ QuietRel (performed i { s with seq := s.seq.tail }) t ∧
      (LatchDownAfter s.cfg (s.pending = false) (ms, i) → t.pending = false) ∧
      t.cfg = s.cfg ∧ t.seqCtx = .service ∧ t.seq = q ∧ t.schedule = rest := by
  obtain ⟨hu, hav⟩ := serviceUop_available hi s.cfg
  obtain ⟨u, hrun, hquiet, hlatch⟩ :=
    run_quietThenUop ms s rest i (performed i) q h hms hq hu hav (performs_service hi)
  have hpopped : QuietRel { s with seq := s.seq.tail } { u with schedule := rest, seq := q } :=
    ⟨by rw [hquiet.eq, hq, List.tail_cons], hquiet.notified⟩
  have hdown (hd : LatchDownAfter s.cfg (s.pending = false) (ms, i)) :
      (performed i { u with schedule := rest, seq := q }).pending = false :=
    serviceUop_latch hi (hd.imp_right fun ⟨hp, htick, hmatch⟩ => ⟨(hlatch htick).trans hp, by rwa [hquiet.cfg]⟩)
  obtain ⟨_, _, _, _, _, _, _, e⟩ := serviceUop_frame hi { u with schedule := rest, seq := q }
  have hservice : (performed i { u with schedule := rest, seq := q }).seqCtx = .service := by
    rw [e]; exact hquiet.seqCtx.trans hctx
  rw [finishUop, if_neg (by simp [hservice])] at hrun
  exact ⟨_, hrun, serviceUop_quiet hi hpopped, hdown, by rw [e]; exact hquiet.cfg, hservice, by rw [e], by rw [e]⟩

/-- The μops left of a service, each after moves of the counter and the acceptance, run to the end (R105). -/
theorem run_serviceUops (l : List (List Move × Instr)) (hms : ∀ x ∈ l, ticksAndAccepts x.1 = true)
    (hctx : s.seqCtx = .service) (hl : l.map Prod.snd ⊆ serviceUops) (hq : s.seq = codes (l.map Prod.snd))
    (h : s.schedule = sequencerAfter (l.map Prod.fst) ++ rest) {down : Prop} (hdown : down → s.pending = false) :
    ∃ t, runSteps (sequencerAfter (l.map Prod.fst)).length s = .next t ∧ QuietRel (performedAll (l.map Prod.snd) s) t ∧
      t.seq = [] ∧ (LatchDown s.cfg down l → t.pending = false) ∧ t.schedule = rest := by
  induction l generalizing s down with
  | nil => exact ⟨s, rfl, ⟨rfl, rfl⟩, hq, hdown, h⟩
  | cons x l ih =>
    obtain ⟨hi, hl⟩ := List.cons_subset.1 hl
    obtain ⟨u, hrun, hquiet, hlatch, hcfg, huctx, hseq, hsched⟩ :=
      run_serviceUop (rest := sequencerAfter (l.map Prod.fst) ++ rest) (hms x List.mem_cons_self) hctx hi hq
        (by simpa using h)
    obtain ⟨t, hrest, htail, hnil, hend, hs⟩ := ih (fun y hy => hms y (List.mem_cons_of_mem x hy)) huctx hl hseq hsched
      (down := LatchDownAfter s.cfg down x) fun hd => hlatch (hd.imp_right (And.imp_left hdown))
    refine ⟨t, ?_, (serviceUops_quiet hl hquiet).trans htail, hnil, hcfg ▸ hend, hs⟩
    rw [show (sequencerAfter ((x :: l).map Prod.fst)).length = x.1.length + 1 + (sequencerAfter (l.map Prod.fst)).length by
      simp; omega]
    exact runSteps_trans hrun hrest

theorem ticksAndAccepts_ticks (n : Nat) : ticksAndAccepts (ticks n) = true := by
  simp [ticksAndAccepts, ticks]

/-- An enabled acceptance and the whole service after it. -/
theorem run_service (l : List (List Move × Instr)) {moves : List Move} (hms : ∀ x ∈ l, ticksAndAccepts x.1 = true)
    (ha : acceptEnabled s = true) (hl : serviceSequence s.cfg = l.map Prod.snd)
    (hmoves : moves = .accept :: sequencerAfter (l.map Prod.fst)) :
    ∃ t, runSteps moves.length (withMoves moves s) = .next t ∧ Serviced l s t := by
  subst hmoves
  have haccept := run_accept (withMoves (.accept :: sequencerAfter (l.map Prod.fst)) s) _ rfl ha
  have hsub : l.map Prod.snd ⊆ serviceUops := hl ▸ serviceSequence_subset s.cfg
  obtain ⟨t, hrun, hquiet, hnil, hlatch, hsched⟩ := run_serviceUops (rest := s.schedule) (down := False)
    (s := enterService { s with schedule := sequencerAfter (l.map Prod.fst) ++ s.schedule }) l hms rfl hsub
    (congrArg codes hl) rfl False.elim
  have hentered : QuietRel (enterService s)
    (enterService { s with schedule := sequencerAfter (l.map Prod.fst) ++ s.schedule }) := ⟨rfl, rfl⟩
  have hend := (serviceUops_quiet hsub hentered).trans hquiet
  have honce : notifyCount t.hist = notifyCount s.hist + 1 := by
    rw [hend.notified, serviceUops_notified hsub, ← hl, serviceSequence_notifies_once, enterService_hist]
  refine ⟨t, ?_, hend, hnil, honce, hlatch, hsched⟩
  rw [List.length_cons, Nat.add_comm]
  exact runSteps_trans haccept hrun

/-- The service is accepted with the enable on and the alarm Armed (R88, R121). -/
theorem enabled_of_acceptEnabled (h : Inv s) (ha : acceptEnabled s = true) : s.ie = true ∧ s.astate = .armed := by
  obtain ⟨_, _, _, hq, _, hie⟩ := acceptEnabled_iff.1 ha
  exact ⟨hie, (enable_iff_armed h hq).1 hie⟩

end Service

/-- Settles O51: the service is U_CLR, U_ARM_PER and U_NOTIFY. -/
theorem periodicServiceRearmsAndNotifies : Obligations.PeriodicServiceRearmsAndNotifies := by
  intro s n0 n1 n2 h ha hmode moves
  obtain ⟨hie, harmed⟩ := enabled_of_acceptEnabled h ha
  obtain ⟨t, hrun, hend⟩ := run_service [(ticks n0, .uClr), (ticks n1, .uArmPer), (ticks n2, .uNotify)]
    (moves := moves) (by simp [ticksAndAccepts_ticks]) ha (if_pos hmode) (by simp [moves])
  have hq := hend.quiet
  exact ⟨t, hrun, hq.compare, hq.ie.trans hie, hq.astate.trans harmed, hq.ctx, hend.seq, hend.notified, hq.normal,
    hq.callback, fun h1 h2 hmatch => hend.latchDown (by simp [LatchDown, LatchDownAfter, h1, h2, hmatch, ticks])⟩

/-- Settles O52: the service is U_CLR, U_IE0, U_CLR, U_DISARMED and U_NOTIFY. -/
theorem tickLessServiceStopsAndNotifies : Obligations.TickLessServiceStopsAndNotifies := by
  intro s n0 n1 n2 n3 n4 _ ha hmode moves
  have hl : serviceSequence s.cfg = [.uClr, .uIe0, .uClr, .uDisarmed, .uNotify] := if_neg (by simp [hmode])
  obtain ⟨t, hrun, hend⟩ := run_service
    [(ticks n0, .uClr), (ticks n1, .uIe0), (ticks n2, .uClr), (ticks n3, .uDisarmed), (ticks n4, .uNotify)]
    (moves := moves) (by simp [ticksAndAccepts_ticks]) ha hl (by simp [moves])
  have hq := hend.quiet
  exact ⟨t, hrun, hq.compare, hq.ie, hq.astate, hq.ctx, hend.seq, hend.notified, hq.normal, hq.callback,
    fun h3 h4 => hend.latchDown (by simp [LatchDown, LatchDownAfter, h3, h4, ticks])⟩

end Sys2Proof.Proofs
end

section
/-!
The dispatch of a command (spec/43_facade.md R103, R104): its checks in order, each with its fault, and what an accepted
command latches and loads.
-/

namespace Sys2Proof.Proofs

open Sys2Proof.Machine Sys2Proof.Safety Sys2Proof.Laws

/-- The opcodes of R52 with the codes of the sequences R61 gives them on this backend; GET_COUNTER and IS_ACTIVE have
one on a valid backend only. -/
def opcodeSequences (c : Config) : List (Byte × List Byte) :=
  [(0x01, [0x80]), (0x03, [0x84, 0x86, 0x87, 0x8C]), (0x04, [0x88, 0x86, 0x8D]), (0x05, [0x84]), (0x06, [0x8B]),
    (0x08, [0x8F]), (0x09, [0x90]), (0x0A, [0x91])] ++
  (if c.backendSel = 0 then [(0x02, [0x81]), (0x07, [0x89])] else []) ++
  (if c.backendSel = 1 then [(0x02, [0x82, 0x83]), (0x07, [0x8A])] else [])

section Dispatch

variable {s : State} {i : Instr} {opc code : Byte} {info : BitVec 24} {w : Word} {rest : List Move}

theorem recordFault_eq_faulted (hf : s.fault = 0) (c : Byte) (j : BitVec 24) : recordFault c j s = faulted c j s := by
  rw [← raiseFault_eq_faulted, raiseFault, if_pos hf]

/-! The checks that depend on the command, each after those before it have passed. -/

theorem dispatchFault_doubleInit (hd : s.initDone = true) : dispatchFault 0x01 s = some (0x11, 0) := if_pos ⟨rfl, hd⟩

theorem dispatchFault_notInit (ho : opc ≠ 0x01 ∧ opc ≠ 0x09 ∧ opc ≠ 0x0A) (hd : s.initDone = false) :
    dispatchFault opc s = some (0x10, opc.setWidth 24) := by
  rw [dispatchFault, if_neg fun h => ho.1 h.1, if_pos ⟨ho, hd⟩]

/-- The context CBRET is turned away in is Normal, whose code is 0: Service holds the host (R43). -/
theorem dispatchFault_badCbret (hd : s.initDone = true) (hh : held s = false) (hc : s.ctx ≠ .callback) :
    dispatchFault 0x08 s = some (0x14, 0) := by
  obtain ⟨_, hservice⟩ := held_eq_false.1 hh
  have hnormal : s.ctx = .normal := by
    cases hx : s.ctx with
    | normal => rfl
    | service => exact absurd hx hservice
    | callback => exact absurd hx hc
  simp [dispatchFault, hd, hnormal, ctxCode]

theorem dispatchFault_passed (hinit : ¬ (opc = 0x01 ∧ s.initDone = true))
    (hnot : ¬ ((opc ≠ 0x01 ∧ opc ≠ 0x09 ∧ opc ≠ 0x0A) ∧ s.initDone = false))
    (hcbret : ¬ (opc = 0x08 ∧ s.ctx ≠ .callback)) : dispatchFault opc s = none := by
  rw [dispatchFault, if_neg hinit, if_neg hnot, if_neg hcbret]

/-- Before INIT is done INIT is accepted, and STATUS and INFO always (R107, R113, R115). -/
theorem dispatchFault_init (hd : s.initDone = false) : dispatchFault Instr.init.code s = none := by
  simp [dispatchFault, Instr.code, hd]

theorem dispatchFault_status (s : State) : dispatchFault Instr.status.code s = none := by
  simp [dispatchFault, Instr.code]

theorem dispatchFault_info (s : State) : dispatchFault Instr.info.code s = none := by
  simp [dispatchFault, Instr.code]

theorem dispatchFault_cbret (hd : s.initDone = true) (hc : s.ctx = .callback) :
    dispatchFault Instr.cbret.code s = none := by
  simp [dispatchFault, Instr.code, hd, hc]

/-! What a command that is neither held nor faulted before does. -/

theorem exec_turnedAway (hready : ready s = true) (hi : i.isCommand = true)
    (hd : dispatchFault i.code s = some (code, info)) : exec i s = .next (faulted code info (enterIssue s)) := by
  obtain ⟨hh, hf⟩ := ready_iff.1 hready
  rw [exec_command hi, issue_ready hh hf, hd, ← raiseFault_eq_faulted]

theorem exec_loads (hready : ready s = true) (hi : i.isCommand = true) (hd : dispatchFault i.code s = none) :
    exec i s = .next (loadSequence i.code (sequenceOf s.cfg i) s) := by
  obtain ⟨hh, hf⟩ := ready_iff.1 hready
  rw [exec_command hi, issue_ready hh hf, hd]

/-- A first fault raised with nothing in SEQ, written out (R117). -/
theorem faulted_first (hf : s.fault = 0) (hq : s.seq = []) (code : Byte) (info : BitVec 24) :
    faulted code info s = { s with
      fault := code, faultInfo := info,
      normal := if s.seqCtx = .normal then { s.normal with rval := 0, rstat := info ++ code } else s.normal
      callback :=
        if s.seqCtx = .callback then { s.callback with rval := 0, rstat := info ++ code } else s.callback } := by
  rw [faulted, if_neg (not_not_intro hf), hq]

/-- The operand latched, with its bank written out (R104). -/
theorem loadSequence_eq (opc : Byte) (q : List Instr) (s : State) : loadSequence opc q s = { s with
    seqCtx := s.ctx, seqOpc := opc, seqArg := (if s.ctx = .callback then s.callback.arg else s.normal.arg), result := 0,
    seq := codes q } := by
  rw [← apply_ite Bank.arg, ← bankOf_eq_ite]; rfl

/-- What the table lists for a command's opcode is the sequence it loads (R61). -/
theorem codes_sequenceOf {c : Config} {q : List Byte} (hi : i.isCommand = true) (hq : (i.code, q) ∈ opcodeSequences c) :
    codes (sequenceOf c i) = q := by
  cases i with
  | getCounter =>
    obtain ⟨hb, rfl⟩ | ⟨hb, rfl⟩ : c.backendSel = 0 ∧ q = [0x81] ∨ c.backendSel = 1 ∧ q = [0x82, 0x83] := by
      simpa [opcodeSequences, Instr.code] using hq
    all_goals rw [sequenceOf, hb]; rfl
  | isActive =>
    obtain ⟨hb, rfl⟩ | ⟨hb, rfl⟩ : c.backendSel = 0 ∧ q = [0x89] ∨ c.backendSel = 1 ∧ q = [0x8A] := by
      simpa [opcodeSequences, Instr.code] using hq
    all_goals rw [sequenceOf, hb]; rfl
  | init | start | stop | set | get | cbret | status | info =>
    refine Eq.symm ?_
    simpa [opcodeSequences, Instr.code, sequenceOf, codes] using hq
  | _ => cases hi

/-- The opcodes left by the check of R54 are the commands' (R52). -/
theorem decodeCmd_defined (hr : rsvField w = 0) (ho : ¬ (opcField w = 0 ∨ 0x0B ≤ (opcField w).toNat)) :
    ∃ i : Instr, i.isCommand = true ∧ opcField w = i.code ∧ decodeCmd w = .ok i := by
  obtain ⟨hzero, hhigh⟩ := not_or.1 ho
  have hpos : (opcField w).toNat ≠ 0 := fun h => hzero (BitVec.eq_of_toNat_eq h)
  obtain ⟨i, hi⟩ := decodeOpcode_defined (opc := opcField w) (by omega) (by omega)
  obtain ⟨hc, hcode⟩ := decodeOpcode_sound hi
  exact ⟨i, hc, hcode, (decodeCmd_rsv_zero hr).trans hi⟩

/-! The step of a write of CMD that nothing holds, with no fault before. -/

theorem step_cmdWrite_notCommand {r : Reject} (h : s.schedule = .host (.write s.cfg.base (wordBytes w)) :: rest)
    (hready : ready s = true) (hdecode : decodeCmd w = .error r) :
    step s = .next (faulted (rejectFault r).1 (rejectFault r).2 (enterIssue { s with schedule := rest })) := by
  obtain ⟨hh, hf⟩ := ready_iff.1 hready
  rw [step_cmdWrite_rejected h hh hf hdecode, recordFault_eq_faulted (s := enterIssue { s with schedule := rest }) hf]

theorem step_cmdWrite_command (h : s.schedule = .host (.write s.cfg.base (wordBytes w)) :: rest) (hh : held s = false)
    (hdecode : decodeCmd w = .ok i) : step s = exec i { s with schedule := rest } :=
  (step_host h hh).trans (hostAccess_command (s := { s with schedule := rest }) (portAction_cmdWord s.cfg w) hdecode)

theorem step_cmdWrite_turnedAway (h : s.schedule = .host (.write s.cfg.base (wordBytes w)) :: rest)
    (hready : ready s = true) (hi : i.isCommand = true) (hdecode : decodeCmd w = .ok i)
    (hd : dispatchFault i.code s = some (code, info)) :
    step s = .next (faulted code info (enterIssue { s with schedule := rest })) :=
  (step_cmdWrite_command h (ready_iff.1 hready).1 hdecode).trans
    (exec_turnedAway (s := { s with schedule := rest }) hready hi hd)

theorem step_cmdWrite_loads (h : s.schedule = .host (.write s.cfg.base (wordBytes w)) :: rest)
    (hready : ready s = true) (hi : i.isCommand = true) (hdecode : decodeCmd w = .ok i)
    (hd : dispatchFault i.code s = none) :
    step s = .next (loadSequence i.code (sequenceOf s.cfg i) { s with schedule := rest }) :=
  (step_cmdWrite_command h (ready_iff.1 hready).1 hdecode).trans
    (exec_loads (s := { s with schedule := rest }) hready hi hd)

end Dispatch

/-- Settles O15: the record after a fault, the word's two rejections, the command's three, then the sequence. -/
theorem dispatchChecksInOrder : Obligations.DispatchChecksInOrder := by
  intro s w rest opc h hh hopc after sequences
  by_cases hf : s.fault ≠ 0
  · rw [if_pos hf]
    exact step_cmdWrite_faulted h hh hf
  rw [if_neg hf]
  have hready : ready s = true := ready_iff.2 ⟨hh, not_not.1 hf⟩
  by_cases hr : rsvField w ≠ 0
  · rw [if_pos hr]
    exact step_cmdWrite_notCommand h hready (decodeCmd_reservedBits hr)
  rw [if_neg hr]
  by_cases ho : opc = 0 ∨ 0x0B ≤ opc.toNat
  · subst hopc
    rw [if_pos ho]
    exact step_cmdWrite_notCommand h hready (decodeCmd_illegalOpcode (not_not.1 hr) ho)
  rw [if_neg ho]
  obtain ⟨i, hi, hcode, hdecode⟩ := decodeCmd_defined (not_not.1 hr) (hopc ▸ ho)
  obtain rfl : opc = i.code := hopc.trans hcode
  have hturned {code : Byte} {info : BitVec 24} (hd : dispatchFault i.code s = some (code, info)) :
      step s = .next (faulted code info after) := step_cmdWrite_turnedAway h hready hi hdecode hd
  by_cases hinit : i.code = 0x01 ∧ s.initDone = true
  · rw [if_pos hinit]
    exact hturned (by rw [hinit.1]; exact dispatchFault_doubleInit hinit.2)
  rw [if_neg hinit]
  by_cases hnot : i.code ≠ 0x01 ∧ i.code ≠ 0x09 ∧ i.code ≠ 0x0A ∧ s.initDone = false
  · rw [if_pos hnot]
    obtain ⟨h1, h9, hA, hd⟩ := hnot
    exact hturned (dispatchFault_notInit ⟨h1, h9, hA⟩ hd)
  rw [if_neg hnot]
  by_cases hcbret : i.code = 0x08 ∧ s.ctx ≠ .callback
  · rw [if_pos hcbret]
    have hd : s.initDone = true := by simpa [hcbret.1] using hnot
    exact hturned (by rw [hcbret.1]; exact dispatchFault_badCbret hd hh hcbret.2)
  rw [if_neg hcbret]
  intro q hq
  have hpassed : dispatchFault i.code s = none := dispatchFault_passed hinit (by rwa [and_assoc, and_assoc]) hcbret
  rw [step_cmdWrite_loads h hready hi hdecode hpassed, loadSequence_eq, codes_sequenceOf hi hq]

/-- Settles O31: no check turns the command away, and its sequence is that of R61. -/
theorem commandsLoadTheirSequence : Obligations.CommandsLoadTheirSequence := by
  intro s hready load
  have hload {i : Instr} (hi : i.isCommand = true) (hd : dispatchFault i.code s = none) :
      exec i s = load i.code (codes (sequenceOf s.cfg i)) := by rw [exec_loads hready hi hd, loadSequence_eq]
  refine ⟨fun hd => hload rfl (dispatchFault_init hd), hload rfl (dispatchFault_status s),
    hload rfl (dispatchFault_info s), fun hd hc => hload rfl (dispatchFault_cbret hd hc), fun hd => ?_⟩
  have hafter {i : Instr} (hi : i.isCommand = true) (hinit : i.code ≠ 0x01) (hcbret : i.code ≠ 0x08) :=
    hload hi (dispatchFault_afterInit hd hinit hcbret)
  refine ⟨hafter rfl (by decide) (by decide), hafter rfl (by decide) (by decide), hafter rfl (by decide) (by decide),
    hafter rfl (by decide) (by decide), fun hb => ⟨?_, ?_⟩, fun hb => ⟨?_, ?_⟩⟩
  all_goals exact (hafter rfl (by decide) (by decide)).trans (by rw [sequenceOf, hb]; rfl)

/-- Settles O32: the three checks, in the bank of the issuing context. -/
theorem dispatchFaultsByCommand : Obligations.DispatchFaultsByCommand := by
  intro s hready fault
  obtain ⟨hh, hf⟩ := ready_iff.1 hready
  obtain ⟨hq, _⟩ := held_eq_false.1 hh
  have hfault {i : Instr} {code : Byte} {info : BitVec 24} (hi : i.isCommand = true)
      (hd : dispatchFault i.code s = some (code, info)) : exec i s = fault code info := by
    rw [exec_turnedAway hready hi hd, faulted_first (s := enterIssue s) hf hq]; rfl
  refine ⟨fun hd => hfault rfl (dispatchFault_doubleInit hd), fun hd => ?_,
    fun hd hc => hfault rfl (dispatchFault_badCbret hd hh hc)⟩
  refine ⟨?_, ?_, ?_, ?_, ?_, ?_, ?_⟩ <;> exact hfault rfl (dispatchFault_notInit (by decide) hd)

end Sys2Proof.Proofs
end

section
/-!
The facade's μops (spec/43_facade.md R106, R108, R114, R116): the response at the end of a command, the set-up of
U_INIT, the status word, and the items of U_INFO.
-/

namespace Sys2Proof.Proofs

open Sys2Proof.Machine Sys2Proof.Safety Sys2Proof.Laws

section FacadeUops

variable {s : State} {c : Config} {k v : Word}

/-- A μop that is not the last of a command does not respond (R105, R106). -/
theorem finishUop_silent (h : s.seq ≠ [] ∨ s.seqCtx = .service) : finishUop s = s :=
  if_neg fun hlast => h.elim (· hlast.1) hlast.2

/-- The last one does (R106). -/
theorem finishUop_responds {x : Ctx} (hq : s.seq = []) (hs : s.seqCtx = x) (hx : x ≠ .service) :
    finishUop s = writeResponse x s.result 0 s := by
  subst hs
  exact if_pos ⟨hq, hx⟩

/-- A configuration that passes the checks of R93 to R96, each written out. -/
theorem validateConfig_accepts (hb : c.backendSel = 0 ∨ c.backendSel = 1) (hm : c.modeSel = 0 ∨ c.modeSel = 1)
    (hfloor : c.modeSel = 1 → (floorOf c).toNat ≤ c.lookahead.toNat)
    (hperiod : c.modeSel = 0 → 1 ≤ c.period.toNat ∧ c.period.toNat < 2 ^ width c) : validateConfig c = none := by
  rw [validateConfig, if_neg (by tauto), if_neg (by tauto), if_neg fun h => (hfloor h.1).not_gt h.2, if_neg]
  rintro ⟨hmode, hzero | hwide⟩
  · have hpos := (hperiod hmode).1
    rw [hzero] at hpos
    exact absurd hpos (by decide)
  · exact (hperiod hmode).2.not_ge hwide

/-- U_INIT on an accepted configuration (R108). -/
theorem performs_uInit (h : validateConfig s.cfg = none) : performs .uInit s = .ok (setUp s) := by
  simp only [performs, h]

theorem performs_uInfo (h : infoItem s.cfg s.seqArg = some v) : performs .uInfo s = .ok { s with result := v } := by
  simp only [performs, h]

theorem performs_uInfo_illegal (h : infoItem s.cfg s.seqArg = none) :
    performs .uInfo s = .error (0x15, s.seqArg.extractLsb' 0 24) := by
  simp only [performs, h]

/-- There is no item above 5 (R116). -/
theorem infoItem_above (c : Config) (hk : 6 ≤ k.toNat) : infoItem c k = none := by
  unfold infoItem
  split
  case h_7 => rfl
  all_goals omega

/-- On a valid backend item 0 is its width and item 3 its floor; else both read 0 (R116). -/
theorem infoItem_width (c : Config) :
    infoItem c 0 = some (if c.backendSel = 0 ∨ c.backendSel = 1 then BitVec.ofNat 32 (width c) else 0) := rfl

theorem infoItem_floor (c : Config) :
    infoItem c 3 = some (if c.backendSel = 0 ∨ c.backendSel = 1 then floorOf c else 0) := rfl

/-- The five bits of a concatenation of bits, lowest last. -/
theorem getLsbD_fiveBits (b4 b3 b2 b1 b0 : Bool) :
    let w : Word :=
      (BitVec.ofBool b4 ++ BitVec.ofBool b3 ++ BitVec.ofBool b2 ++ BitVec.ofBool b1 ++ BitVec.ofBool b0).setWidth 32
    w.getLsbD 0 = b0 ∧ w.getLsbD 1 = b1 ∧ w.getLsbD 2 = b2 ∧ w.getLsbD 3 = b3 ∧ w.getLsbD 4 = b4 := by
  revert b4 b3 b2 b1 b0
  decide

/-- The status word has five bits (R58). -/
theorem statusWord_high (s : State) {k : Nat} (hk : 5 ≤ k) : (statusWord s).getLsbD k = false := by
  rw [statusWord, BitVec.getLsbD_setWidth, BitVec.getLsbD_of_ge _ _ hk, Bool.and_false]

end FacadeUops

/-- Settles O33: `finishUop_silent`, and the response in the bank of each context. -/
theorem lastUopResponds : Obligations.LastUopResponds := by
  refine fun s => ⟨finishUop_silent, fun hq hc => ?_, fun hq hc => ?_⟩
  · rw [finishUop_responds hq hc (by decide), writeResponse_normal]
  · rw [finishUop_responds hq hc (by decide), writeResponse_callback]

/-- Settles O39: the word U_STATUS reads is five bits below zeros. -/
theorem statusWordBits : Obligations.StatusWordBits := by
  intro s
  obtain ⟨h0, h1, h2, h3, h4⟩ := getLsbD_fiveBits (decide (s.seqCtx = .callback)) s.run s.pending
    (decide (s.astate = .armed)) s.initDone
  exact ⟨statusWord s, exec_performs rfl rfl rfl, h0, h1, h2, h3, h4, fun k hk => statusWord_high s hk⟩

/-- Settles O40: each item is on its own, and above 5 there is none. -/
theorem infoItems : Obligations.InfoItems := by
  intro s answer
  have hanswer {k v : Word} (hk : s.seqArg = k) (h : infoItem s.cfg k = some v) : exec .uInfo s = answer v :=
    exec_performs rfl rfl (performs_uInfo (hk ▸ h))
  have hinvalid (hb : 2 ≤ s.cfg.backendSel.toNat) : ¬ (s.cfg.backendSel = 0 ∨ s.cfg.backendSel = 1) := by
    rw [← twoBit_lt_two_iff]; omega
  refine ⟨fun hk hb => hanswer hk ?_, fun hk hb => hanswer hk ?_, fun hk => hanswer hk ?_, fun hk => hanswer hk ?_,
    fun hk hb => hanswer hk ?_, fun hk hb => hanswer hk ?_, fun hk hb => ?_, fun hk => hanswer hk rfl,
    fun hk => hanswer hk rfl, fun hk => ?_⟩
  · rw [infoItem_width, if_pos (.inl hb), width, if_neg (by simp [hb])]
  · rw [infoItem_width, if_pos (.inr hb), width, if_pos hb]
  · rw [BitVec.ofNat_toNat]; rfl
  · rw [BitVec.ofNat_toNat]; rfl
  · rw [infoItem_floor, if_pos (.inl hb), floorOf, if_neg (by simp [hb])]
  · rw [infoItem_floor, if_pos (.inr hb), floorOf, if_pos hb]
  · rcases hk with hk | hk
    · exact hanswer hk (congrArg some (if_neg (hinvalid hb)))
    · exact hanswer hk (congrArg some (if_neg (hinvalid hb)))
  · rw [← low24_eq_ofNat]
    exact exec_raises rfl rfl (performs_uInfo_illegal (infoItem_above s.cfg hk))

/-- Settles O41: the four checks pass, so U_INIT is its set-up. -/
theorem initSetsUpOnLegalConfiguration : Obligations.InitSetsUpOnLegalConfiguration := by
  intro s hb hm hrtc hcc hperiod
  refine exec_performs rfl rfl (performs_uInit (validateConfig_accepts hb hm (fun hmode => ?_) hperiod))
  rcases hb with hb | hb
  · rw [floorOf, if_neg (by simp [hb])]
    exact hrtc hmode hb
  · rw [floorOf, if_pos hb]
    exact hcc hmode hb

end Sys2Proof.Proofs
end

section
/-!
The facade's commands of one μop as a whole (spec/43_facade.md R107, R111, R113, R115): the write of CMD, then the μop.
-/

namespace Sys2Proof.Proofs

open Sys2Proof.Machine Sys2Proof.Safety Sys2Proof.Laws

/-- The state in which the one μop of a command runs: the operand latched, and SEQ empty again (R104, R105). -/
def issued (i : Instr) (s : State) : State :=
  { s with seqCtx := s.ctx, seqOpc := i.code, seqArg := (bankOf s s.ctx).arg, result := 0 }

/-- The facade's commands of one μop, with their μops (R61). -/
def facadeCommands : List (Instr × Instr) := [(.init, .uInit), (.cbret, .uCbret), (.status, .uStatus), (.info, .uInfo)]

section FacadeCommands

variable {s t : State} {i u : Instr}

theorem facadeCommand_spec (hi : (i, u) ∈ facadeCommands) (c : Config) :
    i.isCommand = true ∧ sequenceOf c i = [u] ∧ u.isUop = true ∧ uopAvailable c u = true := by
  simp only [facadeCommands, List.mem_cons, Prod.mk.injEq, List.not_mem_nil, or_false] at hi
  rcases hi with ⟨rfl, rfl⟩ | ⟨rfl, rfl⟩ | ⟨rfl, rfl⟩ | ⟨rfl, rfl⟩ <;> exact ⟨rfl, rfl, rfl, rfl⟩

theorem issued_eq (hq : s.seq = []) (q : List Instr) : { loadSequence i.code q s with seq := [] } = issued i s := by
  rw [issued, hq]; rfl

/-- A ready command of one μop and the sequencer's move after it: the μop runs with the operand latched (R103, R105). -/
theorem run_facadeCommand (hready : ready s = true) (hd : dispatchFault i.code s = none)
    (hi : (i, u) ∈ facadeCommands) :
    runSteps 2 (withMoves [cmdWrite s i, .sequencer] s) = exec u (issued i s) := by
  obtain ⟨hcommand, hl, hu, _⟩ := facadeCommand_spec hi s.cfg
  obtain ⟨hq, _⟩ := held_eq_false.1 (ready_iff.1 hready).1
  have hload := run_commandWrite (withMoves [cmdWrite s i, .sequencer] s) _ i rfl hready hcommand hd
  have hhead := run_head (loadSequence i.code [u] { s with schedule := .sequencer :: s.schedule }) s.schedule u [] rfl
    rfl hu
  rw [← issued_eq hq [u], runSteps_add 1 1, hload]
  exact hl ▸ hhead

/-- Where the μop raises nothing, what it performs and then the response in the bank of CTX (R106). -/
theorem run_facadeCommand_responds (hready : ready s = true) (hd : dispatchFault i.code s = none)
    (hi : (i, u) ∈ facadeCommands) (hp : performs u (issued i s) = .ok t) :
    runSteps 2 (withMoves [cmdWrite s i, .sequencer] s) = .next (writeResponse s.ctx t.result 0 t) := by
  obtain ⟨_, _, hu, hav⟩ := facadeCommand_spec hi s.cfg
  obtain ⟨hq, hctx⟩ := held_eq_false.1 (ready_iff.1 hready).1
  obtain ⟨_, _, hseqCtx⟩ := performs_banks hp
  rw [run_facadeCommand hready hd hi, exec_performs (s := issued i s) hu hav hp,
    finishUop_responds (x := s.ctx) ((performs_seq hp).trans hq) hseqCtx hctx]

end FacadeCommands

/-- Settles O47: no check of the dispatch turns STATUS or INFO away, and an item above 5 is the only fault. -/
theorem statusAndInfoAnswer : Obligations.StatusAndInfoAnswer := by
  intro s hready after
  obtain ⟨hh, hf⟩ := ready_iff.1 hready
  obtain ⟨hq, _⟩ := held_eq_false.1 hh
  refine ⟨?_, fun v hv => ?_, ?_⟩
  · rintro w rfl
    exact run_facadeCommand_responds (u := .uStatus) hready (dispatchFault_status s) (by decide) rfl
  · exact run_facadeCommand_responds hready (dispatchFault_info s) (by decide) (performs_uInfo hv)
  · rintro info habove rfl
    rw [run_facadeCommand (u := .uInfo) hready (dispatchFault_info s) (by decide),
      exec_raises rfl rfl (performs_uInfo_illegal (s := issued .info s) (infoItem_above s.cfg habove)),
      faulted_first (s := issued .info s) hf hq]
    rfl

/-- Settles O49: the reset state is ready, and U_INIT is its set-up. -/
theorem initFromResetSetsUp : Obligations.InitFromResetSetsUp := by
  intro c d q hc s
  exact run_facadeCommand_responds rfl (dispatchFault_init (s := s) rfl) (by decide)
    (performs_uInit (s := issued .init s) hc)

/-- Settles O50: U_CBRET responds in the Callback bank, and leaves the context Normal with SEQ empty. -/
theorem cbretReturnsToNormal : Obligations.CbretReturnsToNormal := by
  intro s hready hd hc
  obtain ⟨hh, hf⟩ := ready_iff.1 hready
  obtain ⟨hq, _⟩ := held_eq_false.1 hh
  have hrun := run_facadeCommand_responds (u := .uCbret) hready (dispatchFault_cbret hd hc) (by decide) rfl
  rw [hc, writeResponse_callback] at hrun
  refine ⟨_, hrun, ?_, ?_⟩
  · simp [issued, returnFromCallback, hc, bankOf, Instr.code]
  · simp [acceptEnabled, busy, irq, issued, returnFromCallback, hf, hd, hq]

end Sys2Proof.Proofs
end

section
/-!
The sequencer (spec/43_facade.md R105, spec/70_reset_and_hazards.md R149, R151): each of its moves pops one μop, and as
many moves as SEQ has μops end the sequence, and with it the run if the host is done.
-/

namespace Sys2Proof.Proofs

open Sys2Proof.Machine Sys2Proof.Safety Sys2Proof.Laws

/-- The sequence in progress leaves the context Normal: it runs there, or it is the last μop of CBRET. -/
def LeavesNormal (s : State) : Prop := s.ctx = .normal ∨ s.seq = codes [.uCbret]

section SequenceEnds

variable {s t : State} {i : Instr} {c : Byte} {q : List Byte} {n : Nat} {rest : List Move}

/-- A scheduled sequencer move runs the head of SEQ (R105). -/
theorem step_sequencer (h : s.schedule = .sequencer :: rest) (hq : s.seq = c :: q) (hd : decodeUop c = .ok i) :
    step s = exec i { s with schedule := rest, seq := q } := by
  rw [step_of_schedule h]
  simp only [act, sequencerStep, hq, hd]

/-- With SEQ empty it does nothing (R105). -/
theorem step_sequencer_idle (h : s.schedule = .sequencer :: rest) (hq : s.seq = []) :
    step s = .next { s with schedule := rest } := by
  rw [step_of_schedule h]
  simp only [act, sequencerStep, hq]

theorem commandSequences_uops {x : Config} {l : List Instr} (hl : l ∈ commandSequences x) :
    l.length ≤ 5 ∧ ∀ i ∈ l, i.isUop = true := by
  by_cases hb : x.backendSel = 0 <;> simp only [commandSequences, hb, if_true, if_false] at hl <;> revert l <;> decide

theorem serviceSequence_uops (x : Config) :
    (serviceSequence x).length ≤ 5 ∧ ∀ i ∈ serviceSequence x, i.isUop = true := by
  unfold serviceSequence; split <;> decide

/-- What is in SEQ is the end of a list of at most five μops (R61, R122). -/
theorem seq_suffix (h : Inv s) : ∃ l : List Instr, l.length ≤ 5 ∧ (∀ i ∈ l, i.isUop = true) ∧ s.seq <:+ codes l := by
  rcases h.sequence with hq | ⟨_, _, l, hl, hq⟩ | ⟨_, _, hq⟩
  · exact ⟨[], by simp, by simp, by rw [hq]; exact List.nil_suffix⟩
  · obtain ⟨hlen, hu⟩ := commandSequences_uops hl
    exact ⟨l, hlen, hu, hq⟩
  · obtain ⟨hlen, hu⟩ := serviceSequence_uops s.cfg
    exact ⟨_, hlen, hu, hq⟩

theorem seq_length_le (h : Inv s) : s.seq.length ≤ 5 := by
  obtain ⟨l, hlen, _, hq⟩ := seq_suffix h
  exact hq.length_le.trans (by simpa [codes] using hlen)

theorem seq_head_uop (h : Inv s) (hq : s.seq = c :: q) : ∃ i : Instr, i.isUop = true ∧ c = i.code := by
  obtain ⟨l, _, hu, hsuffix⟩ := seq_suffix h
  obtain ⟨i, hi, hcode⟩ := List.mem_map.1 (hsuffix.subset (hq ▸ List.mem_cons_self))
  exact ⟨i, hu i hi, hcode.symm⟩

/-- A μop of a sequence that leaves the context Normal leaves it so: it is no U_NOTIFY (R61, R112, R123). -/
theorem leavesNormal_uop (h : Inv s) (hq : s.seq = i.code :: q) (hu : i.isUop = true) (hleaves : LeavesNormal s)
    (he : exec i { s with schedule := rest, seq := q } = .next t) : t.ctx = .normal := by
  by_contra hne
  rcases hleaves with hc | hcbret
  · rcases uop_ctx hu he (by rwa [hc]) with ⟨rfl, _⟩ | ⟨_, hnormal⟩
    · simpa [hc] using (sequence_cases h hq).2
    · exact hne hnormal
  · obtain ⟨hcode, _⟩ := List.cons.inj (hq.symm.trans hcbret)
    obtain rfl : i = .uCbret := code_injective hcode
    rw [exec_performs rfl rfl rfl] at he
    cases he
    exact hne (by simp)

/-- At least as many sequencer moves as SEQ has μops end the sequence (R105): each pops one, or finds SEQ empty. -/
theorem run_sequence (h : Inv s) (hlen : s.seq.length ≤ n) (hsched : s.schedule = List.replicate n .sequencer ++ rest) :
    ∃ t, runSteps n s = .next t ∧ t.seq = [] ∧ t.schedule = rest ∧ (LeavesNormal s → t.ctx = .normal) := by
  induction n generalizing s with
  | zero =>
    have hq : s.seq = [] := List.length_eq_zero_iff.1 (Nat.le_zero.1 hlen)
    exact ⟨s, rfl, hq, hsched, fun hl => hl.resolve_right (by simp [hq, codes])⟩
  | succ n ih =>
    have hhead : s.schedule = .sequencer :: (List.replicate n .sequencer ++ rest) := hsched
    have hmove : ∃ u, step s = .next u ∧ u.seq.length ≤ n ∧ u.schedule = List.replicate n .sequencer ++ rest ∧
        (LeavesNormal s → LeavesNormal u) := by
      cases hq : s.seq with
      | nil =>
        exact ⟨_, step_sequencer_idle hhead hq, by simp [hq], rfl, id⟩
      | cons c q =>
        obtain ⟨i, hu, rfl⟩ := seq_head_uop h hq
        obtain ⟨u, he⟩ := exec_answers_next i { s with schedule := List.replicate n .sequencer ++ rest, seq := q }
        have hpop : q.length ≤ n := by rw [hq] at hlen; exact Nat.le_of_succ_le_succ hlen
        refine ⟨u, (step_sequencer hhead hq (decodeUop_code i hu)).trans he, ?_, ?_,
          fun hl => .inl (leavesNormal_uop h hq hu hl he)⟩
        · rcases uop_seq hu he with hseq | hseq <;> simp [hseq, hpop]
        · obtain ⟨⟨_, _, _, _, _, hschedule, _⟩, _⟩ := uop_frame hu he
          exact hschedule
    obtain ⟨u, hstep, hulen, husched, hleaves⟩ := hmove
    obtain ⟨t, hrun, hnil, hrest, hnormal⟩ := ih (stepKeepsInvariant s u h hstep) hulen husched
    refine ⟨t, ?_, hnil, hrest, fun hl => hnormal (hleaves hl)⟩
    rw [Nat.add_comm]
    exact runSteps_trans (runSteps_one hstep) hrun

end SequenceEnds

/-- Settles O5: the head is popped and its meaning run. -/
theorem stepRunsSequencerHead : Obligations.StepRunsSequencerHead :=
  fun _ _ _ _ _ h hq hd => step_sequencer h hq hd

/-- Settles O53: `run_sequence`; where the host is done and the context ends Normal, that is R151's end. -/
theorem sequencesEnd : Obligations.SequencesEnd := by
  intro s h
  have hinv : Inv (withMoves (List.replicate s.seq.length .sequencer) s) := { h with }
  obtain ⟨t, hrun, hnil, hsched, hnormal⟩ := run_sequence hinv le_rfl rfl
  refine ⟨seq_length_le h, ⟨t, hrun, hnil⟩, fun hdone hleaves => ?_⟩
  have hend : hostDone t = true := by rwa [hostDone, hsched]
  exact ends_of_runSteps hrun (atEnd_iff.2 ⟨hend, hnil, hnormal hleaves⟩)

end Sys2Proof.Proofs
end

section
/-!
The match budget (spec/60_exceptions.md R123, spec/42_mode_selector.md R99, R100): what may raise the latch adds a match, the
first `U_CLR` of a service turns the latch into the notification owed, and U_NOTIFY gives it.
-/

namespace Sys2Proof.Proofs

open Sys2Proof.Machine Sys2Proof.Safety Sys2Proof.Laws

/-- 1 while the latch is up, else 0. -/
def latched (s : State) : Nat := if s.pending = true then 1 else 0

/-- From `s` to `t` a latch that rises has its match. -/
def LatchPaid (s t : State) : Prop := latched t + matchCount s.hist ≤ latched s + matchCount t.hist

/-- What the matches have to cover: the notifications given, the one owed, and the latch. -/
def claims (s : State) : Nat := notifyCount s.hist + owed s + latched s

section MatchBudgetSteps

variable {s t r : State} {i : Instr} {q : List Byte}

@[simp] theorem matchCount_append (l l' : List Event) : matchCount (l ++ l') = matchCount l + matchCount l' :=
  List.countP_append

@[simp] theorem matchCount_matched (v : Word) : matchCount [.matched v] = 1 := rfl

@[simp] theorem matchCount_notify : matchCount [.notify] = 0 := rfl

@[simp] theorem matchCount_missed (v : Word) : matchCount [.missed v] = 0 := rfl

@[simp] theorem notifyCount_append (l l' : List Event) : notifyCount (l ++ l') = notifyCount l + notifyCount l' :=
  List.countP_append

@[simp] theorem notifyCount_notify : notifyCount [.notify] = 1 := rfl

theorem latched_pending (hp : s.pending = true) : latched s = 1 := if_pos hp

theorem latched_clear (hp : s.pending = false) : latched s = 0 := if_neg (by simp [hp])

theorem latched_le_one (s : State) : latched s ≤ 1 := by unfold latched; split <;> decide

theorem owed_le_one (s : State) : owed s ≤ 1 := by unfold owed; split <;> decide

/-- Outside the service nothing is owed. -/
theorem owed_outside_service (hc : s.ctx ≠ .service) : owed s = 0 := if_neg fun h => hc h.1

/-- A service that has not begun holds its latch, and owes nothing yet. -/
theorem owed_unbegun (hq : s.seq = codes (serviceSequence s.cfg)) : owed s = 0 := if_neg fun h => h.2 hq

theorem owed_begun (hc : s.ctx = .service) (hq : s.seq ≠ codes (serviceSequence s.cfg)) : owed s = 1 := if_pos ⟨hc, hq⟩

theorem LatchPaid.of_eq (hp : t.pending = s.pending) (hm : matchCount t.hist = matchCount s.hist) : LatchPaid s t := by
  rw [LatchPaid, latched, latched, hp, hm]

theorem LatchPaid.of_clear (hp : t.pending = false) (hh : t.hist = s.hist) : LatchPaid s t := by
  rw [LatchPaid, latched_clear hp, hh]; omega

theorem LatchPaid.of_match {v : Word} (hh : t.hist = s.hist ++ [.matched v]) : LatchPaid s t := by
  have hone := latched_le_one t
  rw [LatchPaid, hh, matchCount_append, matchCount_matched]; omega

/-- A tick that arrives latches with a match, or misses and leaves the latch (R65). -/
theorem tick_latchPaid (s : State) : LatchPaid s (tick s) := by
  rcases tick_cases s with he | ⟨_, b, he⟩ <;> rw [he]
  · exact le_rfl
  cases ha : arriving s with
  | false => exact .of_eq (by simp [tickWith, ha]) (by simp [tickWith, ha])
  | true =>
    by_cases hmiss : s.near = true ∧ b = false
    · obtain ⟨hn, rfl⟩ := hmiss
      exact .of_eq (by simp [tickWith, hn]) (by simp [tickWith, ha, hn])
    · exact .of_match (v := addW (width s.cfg) s.counter 1) (by simp [tickWith, ha, hmiss])

/-- A compare write that latches adds a match (R72). -/
theorem armCompare_latchPaid (v : Word) (s : State) : LatchPaid s (armCompare v s) := by
  by_cases hm : v = s.counter ∧ s.cfg.pWriteEqMatch = true
  · exact .of_match (if_pos hm)
  · exact .of_eq (by simpa [armCompare] using fun hv hw => absurd ⟨hv, hw⟩ hm) (congrArg matchCount (if_neg hm))

theorem performs_latchPaid (hp : performs i s = .ok r) : LatchPaid s r := by
  cases i with
  | uInit =>
    simp only [performs] at hp
    split at hp
    · cases hp
    · cases hp; exact .of_clear rfl rfl
  | uInfo =>
    simp only [performs] at hp
    split at hp
    · cases hp; exact .of_eq rfl rfl
    · cases hp
  | uArmArg | uArmPer => cases hp; exact armCompare_latchPaid _ s
  | uClr => cases hp; exact .of_clear rfl rfl
  | uNotify => cases hp; exact .of_eq rfl (by simp)
  | _ => cases hp; exact .of_eq rfl rfl

theorem uop_latchPaid (hu : i.isUop = true) (h : exec i s = .next t) : LatchPaid s t := by
  rcases exec_uop_cases hu h with ⟨_, rfl⟩ | ⟨_, r, hp, rfl⟩ | ⟨_, c, j, _, rfl⟩
  · exact .of_eq (raiseFault_pending s _ _) (congrArg matchCount (raiseFault_hist s _ _))
  · have hpaid := performs_latchPaid hp
    rwa [LatchPaid, latched, latched, ← finishUop_pending r, ← finishUop_hist r] at hpaid
  · exact .of_eq (raiseFault_pending s _ _) (congrArg matchCount (raiseFault_hist s _ _))

/-- The budget is kept where what is claimed grows by no more than the matches, and INIT_DONE is not written. -/
theorem matchBudget_of_claims (h : MatchBudget s) (hdone : t.initDone = s.initDone)
    (hclaims : claims t + matchCount s.hist ≤ claims s + matchCount t.hist)
    (hheld : t.ctx = .service → t.seq = codes (serviceSequence t.cfg) → t.pending = true) : MatchBudget t where
  covered hd := by
    have hs : claims s ≤ matchCount s.hist := h.covered (hdone ▸ hd)
    have ht : claims t ≤ matchCount t.hist := by omega
    exact ht
  latchHeld := hheld

theorem matchBudget_tick (h : MatchBudget s) : MatchBudget (tick s) := by
  have howed : owed (tick s) = owed s := by simp [owed]
  have hpaid := tick_latchPaid s
  refine matchBudget_of_claims h (tick_initDone s) ?_ fun hc hq => tick_keeps_pending (h.latchHeld ?_ ?_)
  · rw [LatchPaid] at hpaid
    rw [claims, claims, howed, tick_notified]
    omega
  · rwa [tick_ctx] at hc
  · rwa [tick_seq, tick_cfg] at hq

/-- An acceptance finds the latch up, and begins a service that owes nothing yet (R121). -/
theorem matchBudget_accept (h : MatchBudget s) : MatchBudget (accept s) := by
  rcases accept_cases s with he | ⟨ha, he⟩ <;> rw [he]
  · exact h
  · obtain ⟨_, _, hctx, _, hp, _⟩ := acceptEnabled_iff.1 ha
    have howed : owed (enterService s) = owed s := by
      rw [owed_unbegun (s := enterService s) rfl, owed_outside_service (by simp [hctx])]
    exact matchBudget_of_claims h rfl (by rw [claims, claims, howed]; exact le_rfl) fun _ _ => hp

/-- In the service SEQ is what is left of the service's sequence. -/
theorem service_suffix (h : Inv s) (hc : s.ctx = .service) : s.seq <:+ codes (serviceSequence s.cfg) := by
  rcases h.sequence with hnil | ⟨hctx, _⟩ | ⟨_, _, hsuffix⟩
  · exact absurd hnil (h.serviceBusy hc)
  · exact absurd hc hctx
  · exact hsuffix

/-- After its first μop a service is not at its beginning any more. -/
theorem popped_ne_service (h : Inv s) (hc : s.ctx = .service) (hq : s.seq = i.code :: q) (ht : t.seq = q ∨ t.seq = []) :
    t.seq ≠ codes (serviceSequence s.cfg) := by
  have hsuffix := service_suffix h hc
  have hshort : t.seq.length < s.seq.length := by rcases ht with ht | ht <;> simp [ht, hq]
  exact fun he => absurd (he ▸ hsuffix.length_le) (Nat.not_le.2 hshort)

/-- A service begins with `U_CLR` (R99, R100). -/
theorem head_of_service (hq : s.seq = i.code :: q) (hfull : s.seq = codes (serviceSequence s.cfg)) : i = .uClr := by
  rw [hfull, serviceSequence] at hq
  split at hq <;> exact (code_injective (List.cons.inj hq).1).symm

/-- No μop enters the service (R28). -/
theorem uop_outside_service (hu : i.isUop = true) (h : exec i s = .next t) (hc : s.ctx ≠ .service) : t.ctx ≠ .service := by
  intro ht
  rcases uop_ctx hu h (by rw [ht]; exact hc.symm) with ⟨_, hx⟩ | ⟨_, hx⟩ <;> cases ht.symm.trans hx

section Popped

variable {x : List Move} {d : Nat}

/-- The first `U_CLR` of a service turns its latch into the notification owed (R73, R99, R100). -/
theorem claims_firstClear (hb : MatchBudget s) (hc : s.ctx = .service)
    (hfull : s.seq = codes (serviceSequence s.cfg)) (hq : s.seq = i.code :: q)
    (he : exec i { s with seq := q, schedule := x, draws := d } = .next t) :
    claims t + matchCount s.hist ≤ claims s + matchCount t.hist := by
  obtain rfl := head_of_service hq hfull
  obtain ⟨hclear, hhist⟩ : t.pending = false ∧ t.hist = s.hist := by
    rw [exec_performs rfl rfl rfl] at he
    cases he
    simp
  have hlatch : s.pending = true := hb.latchHeld hc hfull
  have howed := owed_le_one t
  rw [claims, claims, latched_pending hlatch, latched_clear hclear, hhist]
  omega

/-- `U_NOTIFY` gives the notification owed, and leaves the service (R123). -/
theorem claims_notify (h : Inv s) (hq : s.seq = Instr.uNotify.code :: q)
    (he : exec .uNotify { s with seq := q, schedule := x, draws := d } = .next t) :
    claims t + matchCount s.hist ≤ claims s + matchCount t.hist := by
  obtain ⟨hc, rfl⟩ : s.ctx = .service ∧ q = [] := by
    have hshape := (sequence_cases h hq).2
    simp at hshape; tauto
  have howed : owed s = 1 := owed_begun hc fun hfull => by cases head_of_service hq hfull
  rw [exec_performs rfl rfl rfl] at he
  cases he
  rw [claims, claims, howed, owed_outside_service (by simp)]
  simp [latched]

/-- A μop of the sequence in progress claims no more than the matches it adds. -/
theorem claims_uop (h : Inv s) (hb : MatchBudget s) (hu : i.isUop = true) (hq : s.seq = i.code :: q)
    (he : exec i { s with seq := q, schedule := x, draws := d } = .next t) :
    claims t + matchCount s.hist ≤ claims s + matchCount t.hist := by
  by_cases hnotify : i = .uNotify
  · subst hnotify; exact claims_notify h hq he
  by_cases hfirst : s.ctx = .service ∧ s.seq = codes (serviceSequence s.cfg)
  · exact claims_firstClear hb hfirst.1 hfirst.2 hq he
  have hnotified : notifyCount t.hist = notifyCount s.hist := (uop_notified hu hnotify he :)
  have hpaid : LatchPaid s t := (uop_latchPaid hu he :)
  have howed : owed t ≤ owed s := by
    by_cases hc : s.ctx = .service
    · rw [owed_begun hc fun hfull => hfirst ⟨hc, hfull⟩]; exact owed_le_one t
    · rw [owed_outside_service (uop_outside_service hu he hc)]; exact Nat.zero_le _
  rw [LatchPaid] at hpaid
  rw [claims, claims, hnotified]
  omega

/-- `U_INIT` runs with no event before it, and clears the latch that RESET may have left up (R108, R136). -/
theorem matchBudget_uInit (h : Inv s) (hq : s.seq = Instr.uInit.code :: q)
    (he : exec .uInit { s with seq := q, schedule := x, draws := d } = .next t) : MatchBudget t := by
  obtain ⟨hctx, _, rfl⟩ : s.ctx ≠ .service ∧ s.seqCtx = s.ctx ∧ q = [] := by simpa using (sequence_cases h hq).2
  have hnot : s.initDone = false := h.initOnce hq
  obtain ⟨_, _, _, _, hhist, _⟩ := h.beforeInit hnot
  refine ⟨fun hd => ?_, fun hc => absurd hc (uop_outside_service rfl he hctx)⟩
  rcases exec_uop_cases rfl he with ⟨_, rfl⟩ | ⟨_, r, hp, rfl⟩ | ⟨_, c, j, _, rfl⟩
  · simp [hnot] at hd
  · simp only [performs] at hp
    split at hp
    · cases hp
    · cases hp
      simp [owed, hctx, hhist, notifyCount]
  · simp [hnot] at hd

/-- A sequencer step on the head of SEQ keeps the budget (R105). -/
theorem matchBudget_uop (h : Inv s) (hb : MatchBudget s) (hu : i.isUop = true) (hq : s.seq = i.code :: q)
    (he : exec i { s with seq := q, schedule := x, draws := d } = .next t) : MatchBudget t := by
  by_cases hinit : i = .uInit
  · subst hinit; exact matchBudget_uInit h hq he
  obtain ⟨⟨hcfg, _⟩, _, _, _, _, hdone, _⟩ := uop_frame hu he
  refine matchBudget_of_claims hb ?_ (claims_uop h hb hu hq he) fun hc hfull => ?_
  · by_contra hne
    exact hinit (hdone (.inr hne))
  · have hservice : s.ctx = .service := by
      by_contra hs
      exact uop_outside_service hu he hs hc
    have hpopped : t.seq ≠ codes (serviceSequence s.cfg) := popped_ne_service h hservice hq (uop_seq hu he)
    exact absurd (hfull.trans (by rw [hcfg])) hpopped

end Popped

/-- An access that is not held is made outside the service, and touches neither the latch nor the history. -/
theorem matchBudget_of_eq (hb : MatchBudget s) (hh : held s = false) (hctx : t.ctx = s.ctx)
    (hdone : t.initDone = s.initDone) (hp : t.pending = s.pending) (hhist : t.hist = s.hist) : MatchBudget t := by
  obtain ⟨_, hs⟩ := held_eq_false.1 hh
  have ht : t.ctx ≠ .service := by rwa [hctx]
  refine matchBudget_of_claims hb hdone (le_of_eq ?_) fun hc => absurd hc ht
  rw [claims, claims, latched, latched, owed_outside_service hs, owed_outside_service ht, hp, hhist]

theorem matchBudget_command (hb : MatchBudget s) (hi : i.isCommand = true) (hh : held s = false)
    (he : exec i s = .next t) : MatchBudget t := by
  obtain ⟨_, _, _, _, _, _, _, _, _, rfl⟩ := command_frame hi hh he
  exact matchBudget_of_eq hb hh rfl rfl rfl rfl

end MatchBudgetSteps

/-- Settles O19: each kind of step pays for what it claims. -/
theorem stepKeepsMatchBudget : Obligations.StepKeepsMatchBudget := by
  intro s t h hb hstep
  obtain ⟨x, n, hcases⟩ := step_inversion hstep
  have hu : MatchBudget { s with schedule := x, draws := n } := { hb with }
  rcases hcases with ⟨_, rfl⟩ | ⟨_, ⟨_, rfl⟩ | rfl | ⟨i, q, hi, hq, he⟩ | ⟨hh, _, _, i, _, _, _, hi, he⟩ |
    ⟨hh, _, r, _, rfl⟩ | ⟨hh, ⟨v, rfl⟩ | ⟨r, rfl⟩ | ⟨j, rfl⟩⟩⟩
  · exact matchBudget_tick hu
  · exact matchBudget_accept hu
  · exact hu
  · exact matchBudget_uop h hb hi hq he
  · exact matchBudget_command hu hi hh he
  · exact matchBudget_of_eq hu hh (rejectCommand_ctx _ r) (rejectCommand_initDone _ r) (rejectCommand_pending _ r)
      (rejectCommand_hist _ r)
  · exact matchBudget_of_eq hu hh rfl rfl rfl rfl
  · exact matchBudget_of_eq hu hh rfl rfl rfl rfl
  · exact matchBudget_of_eq hu hh (badAccess_ctx _ j) (badAccess_initDone _ j) (badAccess_pending _ j)
      (badAccess_hist _ j)

section Runs

variable {s t : State}

theorem matchBudget_of_path {ok : State → Move → Bool} (h : Inv s) (hb : MatchBudget s) (hpath : Path ok s t) :
    MatchBudget t := by
  induction hpath with
  | refl => exact hb
  | snoc hpath _ hstep ih => exact stepKeepsMatchBudget _ _ (inv_of_path h hpath) ih hstep

theorem matchBudget_of_reachable (h : Reachable s) : MatchBudget s := by
  obtain ⟨c, d, q, _, hpath⟩ := h
  exact matchBudget_of_path (inv_resetWith c d q) (matchBudget_resetWith c d q) hpath

end Runs

/-- Settles O22: after INIT by the budget; before it nothing has happened. -/
theorem notifyAtMostOncePerMatch : Obligations.NotifyAtMostOncePerMatch := by
  intro s hreach
  cases hd : s.initDone with
  | false =>
    obtain ⟨_, _, _, _, hhist, _⟩ := (inv_of_reachable hreach).beforeInit hd
    rw [hhist]; exact le_rfl
  | true =>
    have hcovered := (matchBudget_of_reachable hreach).covered hd
    omega

end Sys2Proof.Proofs
end

section
/-!
The acceptance, the callback and a faulted block (spec/60_exceptions.md R119, R121 to R123, spec/43_facade.md R112): the
service is entered only when ACCEPT is enabled, which it is not after a fault, and then no step starts a sequence.
-/

namespace Sys2Proof.Proofs

open Sys2Proof.Machine Sys2Proof.Safety Sys2Proof.Laws

/-- From `s` to `t` the fault record, the context and the notifications are kept, and no sequence runs. -/
def StaysFaulted (s t : State) : Prop :=
  t.fault = s.fault ∧ t.faultInfo = s.faultInfo ∧ t.ctx = s.ctx ∧ t.seq = [] ∧ notifyCount t.hist = notifyCount s.hist

section AcceptAndFault

variable {s t : State} {i : Instr} {rest : List Move}

theorem acceptEnabled_eq_false_iff : acceptEnabled s = false ↔
    s.fault ≠ 0 ∨ s.initDone = false ∨ s.ctx ≠ .normal ∨ s.seq ≠ [] ∨ s.pending = false ∨ s.ie = false := by
  simp only [← Bool.not_eq_true, acceptEnabled_iff, not_and_or, ne_eq]

theorem accept_enabled (ha : acceptEnabled s = true) : accept s = enterService s := if_pos ha

theorem accept_disabled (ha : acceptEnabled s = false) : accept s = s := if_neg (by simp [ha])

theorem step_accept (h : s.schedule = .accept :: rest) :
    step s = .next (accept { s with schedule := rest }) := step_of_schedule h

/-- The codes of the two services (R60, R99, R100). -/
theorem codes_serviceSequence (c : Config) :
    codes (serviceSequence c) = if c.modeSel = 0 then [0x86, 0x85, 0x8E] else [0x86, 0x88, 0x86, 0x8D, 0x8E] := by
  unfold serviceSequence; split <;> rfl

theorem staysFaulted_refl (hq : s.seq = []) : StaysFaulted s s := ⟨rfl, rfl, rfl, hq, rfl⟩

theorem tick_staysFaulted (hq : s.seq = []) : StaysFaulted s (tick s) :=
  ⟨tick_fault s, tick_faultInfo s, tick_ctx s, (tick_seq s).trans hq, tick_notified s⟩

/-- A faulted block starts no service (R119, R121). -/
theorem accept_staysFaulted (hf : s.fault ≠ 0) (hq : s.seq = []) : StaysFaulted s (accept s) := by
  rw [accept_disabled (acceptEnabled_eq_false_iff.2 (.inl hf))]
  exact staysFaulted_refl hq

theorem answerFault_staysFaulted (hq : s.seq = []) : StaysFaulted s (answerFault s) := ⟨rfl, rfl, rfl, hq, rfl⟩

theorem command_staysFaulted (hf : s.fault ≠ 0) (hi : i.isCommand = true) (hh : held s = false)
    (h : exec i s = .next t) : StaysFaulted s t := by
  rw [exec_command hi, issue_faulted hh hf] at h
  cases h
  exact answerFault_staysFaulted (held_eq_false.1 hh).1

theorem rejectCommand_staysFaulted (hf : s.fault ≠ 0) (hq : s.seq = []) (r : Reject) :
    StaysFaulted s (rejectCommand r s) := by
  rw [rejectCommand, if_pos hf]
  exact answerFault_staysFaulted hq

theorem badAccess_staysFaulted (hf : s.fault ≠ 0) (hq : s.seq = []) (j : BitVec 24) :
    StaysFaulted s (badAccess j s) := by
  rw [badAccess_faulted hf]
  exact staysFaulted_refl hq

end AcceptAndFault

/-- Settles O8: the scheduled move is `accept`, and R121's condition is `acceptEnabled_iff`. -/
theorem acceptEntersServiceOnlyWhenEnabled : Obligations.AcceptEntersServiceOnlyWhenEnabled := by
  intro s rest h
  rw [step_accept h, ← codes_serviceSequence]
  constructor
  · intro hf hd hc hq hp hie
    exact congrArg _ (accept_enabled (s := { s with schedule := rest })
      (acceptEnabled_iff.2 ⟨hf, hd, hc, hq, hp, hie⟩))
  · intro hnot
    exact congrArg _ (accept_disabled (s := { s with schedule := rest }) (acceptEnabled_eq_false_iff.2 hnot))

/-- Settles O38: each is on both backends, and performs its one change of context. -/
theorem notifyAndReturnSwitchContext : Obligations.NotifyAndReturnSwitchContext :=
  fun _ => ⟨exec_performs rfl rfl rfl, exec_performs rfl rfl rfl⟩

/-- Settles O23: with SEQ empty and the acceptance not enabled, a step counts, answers the record, or does the port's reads
and writes of ARG. -/
theorem faultIsStickyAndSilent : Obligations.FaultIsStickyAndSilent := by
  intro s t h hf hstep
  have hnil : s.seq = [] := h.faultEnds hf
  obtain ⟨x, n, hcases⟩ := step_inversion hstep
  change StaysFaulted { s with schedule := x, draws := n } t
  rcases hcases with ⟨_, rfl⟩ | ⟨_, ⟨_, rfl⟩ | rfl | ⟨i, q, _, hq, _⟩ | ⟨hh, _, _, i, _, _, _, hi, he⟩ |
    ⟨_, _, r, _, rfl⟩ | ⟨_, ⟨v, rfl⟩ | ⟨r, rfl⟩ | ⟨j, rfl⟩⟩⟩
  · exact tick_staysFaulted hnil
  · exact accept_staysFaulted hf hnil
  · exact staysFaulted_refl hnil
  · cases hnil.symm.trans hq
  · exact command_staysFaulted hf hi hh he
  · exact rejectCommand_staysFaulted (s := { s with schedule := x, draws := n }) hf hnil r
  · exact ⟨rfl, rfl, rfl, hnil, rfl⟩
  · exact ⟨rfl, rfl, rfl, hnil, rfl⟩
  · exact badAccess_staysFaulted (s := { s with schedule := x, draws := n }) hf hnil j

end Sys2Proof.Proofs
end

section
/-!
What stops the model (spec/60_exceptions.md R131, spec/20_memory.md R36, R38): a step answers a next state, unless it is an
access of no bus size or outside the window.
-/

namespace Sys2Proof.Proofs

open Sys2Proof.Machine Sys2Proof.Safety Sys2Proof.Laws

/-- The stop is for an access that is not the block's: of no bus size, or outside the window (R36, R38). -/
def ForeignStop (c : Config) (a : Access) (f : Fault) : Prop :=
  (f = .notABusAccess (accessSize a) ∧ a.wf = false) ∨
  (f = .outsideWindow (accessAddr a) ∧ (accessAddr a < c.base ∨ c.base + 16 ≤ accessAddr a))

section Stops

variable {s : State} {a : Access}

/-- The sequencer always has a step: what heads SEQ is a μop, and every μop answers (R60, R105). -/
theorem sequencerStep_answers (h : Inv s) : ∃ t, sequencerStep s = .next t := by
  unfold sequencerStep
  cases hq : s.seq with
  | nil => exact ⟨s, rfl⟩
  | cons c q =>
    obtain ⟨i, hu, rfl⟩ := seq_head_uop h hq
    simp only [decodeUop_code i hu]
    exact exec_answers_next i _

theorem hostAccess_notABusAccess (hw : a.wf = false) (s : State) :
    hostAccess a s = .fault (.notABusAccess (accessSize a)) := by
  simp only [hostAccess, portAction, if_pos hw]

theorem hostAccess_outsideWindow (hw : a.wf = true) (ho : accessAddr a < s.cfg.base ∨ s.cfg.base + 16 ≤ accessAddr a) :
    hostAccess a s = .fault (.outsideWindow (accessAddr a)) := by
  have hsize : ¬ a.wf = false := by simp [hw]
  simp only [hostAccess, portAction, if_neg hsize, if_pos ho]

theorem readAction_answered (off size : Nat) :
    (∃ r, readAction off size = .readReg r) ∨ ∃ info, readAction off size = .bad info := by
  unfold readAction
  split
  · exact .inl ⟨_, rfl⟩
  split
  · exact .inl ⟨_, rfl⟩
  split
  · exact .inl ⟨_, rfl⟩
  · exact .inr ⟨_, rfl⟩

theorem writeAction_answered (off : Nat) (bytes : List Byte) :
    (∃ w, writeAction off bytes = .command w) ∨ (∃ v, writeAction off bytes = .writeArg v) ∨
      ∃ info, writeAction off bytes = .bad info := by
  unfold writeAction
  split
  · split
    · exact .inl ⟨_, rfl⟩
    split
    · exact .inr (.inl ⟨_, rfl⟩)
    · exact .inr (.inr ⟨_, rfl⟩)
  · exact .inr (.inr ⟨_, rfl⟩)

/-- A write of CMD answers, a command or not (R53, R54, R103). -/
theorem hostAccess_command_answers {w : Word} (hp : portAction s.cfg a = .command w) : ∃ t, hostAccess a s = .next t := by
  cases hd : decodeCmd w with
  | ok i => rw [hostAccess_command hp hd]; exact exec_answers_next i s
  | error r => exact ⟨_, hostAccess_rejected hp hd⟩

/-- Every bus access in the window has a meaning (R36, R38, R131). -/
theorem hostAccess_window_answers {off : Nat} (hw : a.wf = true) (ha : accessAddr a = s.cfg.base + off) (ho : off < 16) :
    ∃ t, hostAccess a s = .next t := by
  have hp := portAction_window hw ha ho
  cases a with
  | read addr size =>
    rcases readAction_answered off size with ⟨r, hr⟩ | ⟨info, hr⟩
    · exact ⟨_, hostAccess_readReg (hp.trans hr)⟩
    · exact ⟨_, hostAccess_bad (hp.trans hr)⟩
  | write addr bytes =>
    rcases writeAction_answered off bytes with ⟨w, hr⟩ | ⟨v, hr⟩ | ⟨info, hr⟩
    · exact hostAccess_command_answers (hp.trans hr)
    · exact ⟨_, hostAccess_writeArg (hp.trans hr)⟩
    · exact ⟨_, hostAccess_bad (hp.trans hr)⟩

theorem hostAccess_answers_or_stops (a : Access) (s : State) :
    (∃ t, hostAccess a s = .next t) ∨ ∃ f, hostAccess a s = .fault f ∧ ForeignStop s.cfg a f := by
  cases hw : a.wf with
  | false => exact .inr ⟨_, hostAccess_notABusAccess hw s, .inl ⟨rfl, hw⟩⟩
  | true =>
    by_cases ho : accessAddr a < s.cfg.base ∨ s.cfg.base + 16 ≤ accessAddr a
    · exact .inr ⟨_, hostAccess_outsideWindow hw ho, .inr ⟨rfl, ho⟩⟩
    · exact .inl (hostAccess_window_answers hw (off := accessAddr a - s.cfg.base) (by omega) (by omega))

/-- A step answers a next state, or it is a foreign access. -/
theorem step_answers_or_stops (h : Inv s) : (∃ t, step s = .next t) ∨
    ∃ a f, (takeMove s).1 = .host a ∧ step s = .fault f ∧ ForeignStop s.cfg a f := by
  have hu := takeMove_eq s
  unfold step
  generalize (takeMove s).2 = u at hu ⊢
  have hinv (x : List Move) : Inv { u with schedule := x } := by rw [hu]; exact { h with }
  have hcfg : u.cfg = s.cfg := by rw [hu]
  cases (takeMove s).1 with
  | tick => exact .inl ⟨_, rfl⟩
  | accept => exact .inl ⟨_, rfl⟩
  | sequencer => exact .inl (sequencerStep_answers (hinv u.schedule))
  | host a =>
    cases hh : held u with
    | true => rw [act_host_held hh]; exact .inl (sequencerStep_answers (hinv _))
    | false =>
      rw [act_host_free hh]
      refine (hostAccess_answers_or_stops a u).imp_right ?_
      rintro ⟨f, hf, hstop⟩
      exact ⟨a, f, rfl, hf, hcfg ▸ hstop⟩

end Stops

/-- Settles O9: `step_answers_or_stops`. -/
theorem onlyForeignAccessesStop : Obligations.OnlyForeignAccessesStop := by
  intro s h
  rcases step_answers_or_stops h with ⟨t, ht⟩ | ⟨a, f, ha, hf, hstop⟩
  · simp [ht]
  · rw [hf]
    refine ⟨by simp, fun g hg => ?_⟩
    cases hg
    exact ⟨a, ha, hstop⟩

end Sys2Proof.Proofs
end

section
/-!
What RESET leaves (spec/70_reset_and_hazards.md R135), and the look-ahead of a START (R139, R150): the deadline shrinks by
the ticks that fall, and while it is ahead they latch nothing; with the premise as R150 words it, it can shrink into the
near window before the compare write.
-/

namespace Sys2Proof.Proofs

open Sys2Proof.Machine Sys2Proof.Safety Sys2Proof.Laws

/-- The running count is `k` ticks before the deadline `d`, whose compare write was not near (R65, R72). -/
structure DeadlineAhead (d : Word) (k : Nat) (s : State) : Prop where
  /-- The invariant. -/
  inv : Inv s
  /-- The parameters are in range. -/
  wf : s.cfg.wf = true
  /-- The counter runs. -/
  run : s.run = true
  /-- The compare write was not near. -/
  near : s.near = false
  /-- The deadline is programmed. -/
  compare : s.compare = d
  /-- How far it is ahead. -/
  distance : mdiffW (width s.cfg) d s.counter = k

/-- The μops of START after its compare write (R83). -/
def startUops : List Instr := [.uClr, .uIe1, .uArmed]

/-- The configuration of log entry 12, with `MISS_WINDOW = 3`. -/
def nearMissConfig : Config := { referenceConfig with missWindow := 3 }

/-- After INIT on it, with the count 0 and 4 in ARG, so that three ticks before U_ARM_ARG leave the deadline 1 ahead. -/
def nearMiss : State :=
  { State.resetWith nearMissConfig { zeroDraws with argNormal := 4 } [] with
    pending := false, run := true, initDone := true, seqOpc := 0x01, seqArg := 4,
    normal := { arg := 4, rval := 0, rstat := 0 } }

section Lookahead

variable {s t : State} {d : Word} {k n n0 n1 n2 n3 : Nat} {i : Instr} {q : List Byte} {rest : List Move}

theorem inv_of_runSteps (h : Inv s) (hrun : runSteps k s = .next t) : Inv t :=
  inv_of_path h (path_of_runSteps hrun)

/-- It speaks of the invariant, the parameters, the count, COMPARE, NEAR and RUN only. -/
theorem DeadlineAhead.of_same_time (h : DeadlineAhead d k s) (hinv : Inv t) (hcfg : t.cfg = s.cfg)
    (hcounter : t.counter = s.counter) (hcompare : t.compare = s.compare) (hnear : t.near = s.near)
    (hrun : t.run = s.run) : DeadlineAhead d k t where
  inv := hinv
  wf := by rw [hcfg]; exact h.wf
  run := hrun.trans h.run
  near := hnear.trans h.near
  compare := hcompare.trans h.compare
  distance := by rw [hcfg, hcounter]; exact h.distance

theorem DeadlineAhead.ticksToMatch_eq (h : DeadlineAhead d k s) (hk : 0 < k) : ticksToMatch s = k := by
  have hne : s.compare ≠ s.counter := by
    intro heq
    have hd := h.distance
    rw [← h.compare, heq, mdiffW_self h.inv.counterFits] at hd
    omega
  rw [ticksToMatch, if_neg hne, h.compare, h.distance]

/-- A deadline is nearer by the ticks that fall (R12, R13). -/
theorem mdiffW_countAfter (hw : s.cfg.wf = true) (hd : d.toNat < 2 ^ width s.cfg)
    (hc : s.counter.toNat < 2 ^ width s.cfg) (hn : n ≤ mdiffW (width s.cfg) d s.counter) :
    mdiffW (width s.cfg) d (countAfter s n) = mdiffW (width s.cfg) d s.counter - n :=
  mdiffW_add hd hc (countAfter_toNat hw n) hn

/-- Ticks short of the deadline only bring it nearer. -/
theorem run_ticks_ahead (h : DeadlineAhead d k s) (hn : n < k) (hs : s.schedule = ticks n ++ rest) :
    ∃ t, runSteps n s = .next t ∧ DeadlineAhead d (k - n) t ∧ t = { s with counter := countAfter s n, schedule := rest } := by
  have hrun := run_ticks_before_match h.inv h.wf h.run (by rwa [h.ticksToMatch_eq (Nat.zero_lt_of_lt hn)]) rest hs
  refine ⟨_, hrun, ⟨inv_of_runSteps h.inv hrun, h.wf, h.run, h.near, h.compare, ?_⟩, rfl⟩
  have hle : n ≤ mdiffW (width s.cfg) d s.counter := by rw [h.distance]; exact hn.le
  exact (mdiffW_countAfter h.wf (h.compare ▸ h.inv.compareFits) h.inv.counterFits hle).trans (by rw [h.distance])

theorem startUops_cases (hi : i ∈ startUops) : i = .uClr ∨ i = .uIe1 ∨ i = .uArmed := by
  simpa [startUops] using hi

theorem startUops_alarm (hi : i ∈ startUops) : i ∈ alarmUops := by
  rcases startUops_cases hi with rfl | rfl | rfl <;> decide

/-- The registers a μop of START after its compare write may write (R73, R74, R81). -/
theorem startUop_frame (hi : i ∈ startUops) (s : State) : ∃ p e a, performed i s = { s with
    pending := p, ie := e, astate := a } := by
  rcases startUops_cases hi with rfl | rfl | rfl <;> exact ⟨_, _, _, rfl⟩

/-- It raises no latch, and U_CLR takes one down (R73). -/
theorem startUop_latchDown (hi : i ∈ startUops) (h : i ≠ .uClr → s.pending = false) :
    (performed i s).pending = false := by
  by_cases hclr : i = .uClr
  · subst hclr; rfl
  · exact performed_raises_no_latch (startUops_alarm hi) (by rintro rfl; exact absurd hi (by decide)) (h hclr)

/-- Ticks short of the deadline, then a μop of START after its compare write: the deadline is nearer, and no latch has
come. -/
theorem run_startUop (h : DeadlineAhead d k s) (hn : n < k) (hi : i ∈ startUops) (hq : s.seq = i.code :: q)
    (hs : s.schedule = ticks n ++ .sequencer :: rest) (hlatch : i ≠ .uClr → s.pending = false) :
    ∃ t, runSteps (n + 1) s = .next t ∧ DeadlineAhead d (k - n) t ∧ t.pending = false ∧ t.seq = q ∧
      t.schedule = rest := by
  obtain ⟨u, hticks, hu, rfl⟩ := run_ticks_ahead h hn hs
  obtain ⟨huop, hav⟩ := alarmUop_available (startUops_alarm hi) s.cfg
  have hrun := runSteps_trans hticks (run_performs rfl hq huop hav (performs_alarm (startUops_alarm hi) _))
  have hdown := startUop_latchDown hi (s := { s with counter := countAfter s n, schedule := rest, seq := q }) hlatch
  have hinv := inv_of_runSteps h.inv hrun
  obtain ⟨_, _, _, e⟩ := startUop_frame hi { s with counter := countAfter s n, schedule := rest, seq := q }
  refine ⟨_, hrun, hu.of_same_time hinv ?_ ?_ ?_ ?_ ?_, (finishUop_pending _).trans hdown, ?_, ?_⟩
  all_goals simp [e]

/-- A compare write further ahead than `MISS_WINDOW` is not near (R72). -/
theorem armCompare_not_near {v : Word} (h : s.cfg.missWindow < mdiffW (width s.cfg) v s.counter) :
    (armCompare v s).near = false := by
  simp [armCompare, h]

/-- Ticks, then START's compare write, with the deadline more than both ahead when the ticks begin (R70, R72). -/
theorem run_uArmArg_ahead (h : Inv s) (hw : s.cfg.wf = true) (hr : s.run = true) (hq : s.seq = Instr.uArmArg.code :: q)
    (hs : s.schedule = ticks n ++ .sequencer :: rest) (hd : deadline s = d) (hk : mdiffW (width s.cfg) d s.counter = k)
    (hahead : n + s.cfg.missWindow < k) :
    ∃ t, runSteps (n + 1) s = .next t ∧ DeadlineAhead d (k - n) t ∧ t.seq = q ∧ t.schedule = rest := by
  subst hd hk
  obtain ⟨u, hrun, hticks, _⟩ := run_ticksThenUop n s rest .uArmArg (fun x => armCompare (deadline x) x) q hs hr hq rfl rfl
    fun _ => rfl
  have hinv := inv_of_runSteps h hrun
  have hu := quietRel_of_ticks hticks
  have hd : deadline { u with schedule := rest, seq := q } = deadline s := by rw [hu.eq]; rfl
  have hdistance : mdiffW (width u.cfg) (deadline s) u.counter = mdiffW (width s.cfg) (deadline s) s.counter - n := by
    rw [hu.cfg, counter_of_ticks hticks hw h.counterFits]
    exact mdiffW_countAfter hw (truncW_lt _ _) h.counterFits (by omega)
  have hfar : u.cfg.missWindow < mdiffW (width u.cfg) (deadline s) u.counter := by rw [hdistance, hu.cfg]; omega
  have hnear := armCompare_not_near (s := { u with schedule := rest, seq := q }) hfar
  rw [hd] at hrun hinv
  refine ⟨_, hrun, ⟨hinv, ?_, ?_, ?_, ?_, ?_⟩, ?_, ?_⟩
  · simpa [hu.cfg] using hw
  · simpa [hu.run] using hr
  · simpa using hnear
  · simp
  · simpa using hdistance
  · simp
  · simp

/-- The rest of START after its compare write, with fewer ticks than the deadline is ahead: no latch is left. -/
theorem run_startUops (h : DeadlineAhead d k s) (hn : n1 + n2 + n3 < k) (hq : s.seq = codes startUops)
    (hs : s.schedule = tickedMoves [(n1, .uClr), (n2, .uIe1), (n3, .uArmed)] ++ rest) :
    ∃ t, runSteps (tickedMoves [(n1, .uClr), (n2, .uIe1), (n3, .uArmed)]).length s = .next t ∧ t.pending = false ∧
      DeadlineAhead d (k - (n1 + n2 + n3)) t := by
  obtain ⟨u, hclr, hu, hup, huseq, husched⟩ := run_startUop (n := n1) (i := .uClr) (q := codes [.uIe1, .uArmed])
    (rest := tickedMoves [(n2, .uIe1), (n3, .uArmed)] ++ rest) h (by omega) (by decide) hq (by simpa using hs) (absurd rfl)
  obtain ⟨v, hie1, hv, hvp, hvseq, hvsched⟩ := run_startUop (n := n2) (i := .uIe1) (q := codes [.uArmed])
    (rest := tickedMoves [(n3, .uArmed)] ++ rest) hu (by omega) (by decide) huseq (by simpa using husched) fun _ => hup
  obtain ⟨t, harmed, ht, htp, _⟩ := run_startUop (n := n3) (i := .uArmed) (q := []) (rest := rest) hv (by omega)
    (by decide) hvseq (by simpa using hvsched) fun _ => hvp
  have hlen : (tickedMoves [(n1, .uClr), (n2, .uIe1), (n3, .uArmed)]).length = n1 + 1 + (n2 + 1 + (n3 + 1)) := by
    simp; omega
  refine ⟨t, hlen ▸ runSteps_trans hclr (runSteps_trans hie1 harmed), htp, ?_⟩
  rwa [Nat.sub_sub, Nat.sub_sub, ← Nat.add_assoc] at ht

/-- START as a whole, with fewer ticks inside it than the deadline is ahead of the near window (R83). -/
theorem run_start_ahead (h : Inv s) (hw : s.cfg.wf = true) (hready : ready s = true) (hdone : s.initDone = true)
    {moves : List Move} (hmoves : moves = cmdWrite s .start :: tickedMoves
      [(n0, .uArmArg), (n1, .uClr), (n2, .uIe1), (n3, .uArmed)])
    (hd : d = truncW (width s.cfg) (bankOf s s.ctx).arg) (hk : mdiffW (width s.cfg) d s.counter = k)
    (hahead : n0 + n1 + n2 + n3 + s.cfg.missWindow < k) :
    ∃ t, runSteps moves.length (withMoves moves s) = .next t ∧ t.pending = false ∧
      DeadlineAhead d (k - (n0 + n1 + n2 + n3)) t := by
  subst hmoves
  have hload := run_load (tickedMoves [(n0, .uArmArg), (n1, .uClr), (n2, .uIe1), (n3, .uArmed)]) (i := .start) hready hdone
    rfl (by decide) (by decide)
  have hinv := inv_of_runSteps (s := withMoves _ s) { h with } hload
  obtain ⟨u, harm, hu, huseq, husched⟩ := run_uArmArg_ahead (q := codes startUops) (n := n0) (d := d) (k := k)
    (rest := tickedMoves [(n1, .uClr), (n2, .uIe1), (n3, .uArmed)] ++ s.schedule) hinv hw (h.runIsInit.trans hdone) rfl
    (by simp) hd.symm hk (show n0 + s.cfg.missWindow < k by omega)
  obtain ⟨t, hrest, hpending, ht⟩ := run_startUops (n1 := n1) (n2 := n2) (n3 := n3) hu (by omega) huseq husched
  have hrun := runSteps_trans hload (runSteps_trans harm hrest)
  refine ⟨t, ?_, hpending, ?_⟩
  · convert hrun using 2
    simp
    omega
  · rwa [Nat.sub_sub, ← Nat.add_assoc, ← Nat.add_assoc] at ht

/-- The ticks to a deadline that is ahead raise the match at it (R65). -/
theorem run_ticks_to_deadline (h : DeadlineAhead d k s) (hk : 0 < k) :
    runSteps k (withMoves (ticks k) s) = .next { s with
      counter := d, pending := true, hist := s.hist ++ [.matched d] } := by
  have hk' : ticksToMatch (withMoves (ticks k) s) = k := h.ticksToMatch_eq hk
  have hrun := run_ticks_to_match (s := withMoves (ticks k) s) { h.inv with } h.wf h.run h.near s.schedule
    (by rw [hk']; rfl)
  rw [hk'] at hrun
  rw [hrun, ← h.compare]
  rfl

end Lookahead

/-- Settles O16: the reset state is written out. -/
theorem resetLeavesTableValues : Obligations.ResetLeavesTableValues := by
  intro c d q s
  exact ⟨rfl, rfl, rfl, rfl, rfl, rfl, rfl, rfl, rfl, rfl, rfl, rfl, rfl, rfl, rfl, rfl, rfl⟩

/-- Settles O55: the ticks in the sequence leave the deadline ahead and outside the near window, so the first tick that
brings the count to it is latched. -/
theorem lookaheadStartIsNotLost : Obligations.LookaheadStartIsNotLost := by
  intro s d bound n0 n1 n2 n3 h hw hready hdone hd hbound hahead moves k
  obtain ⟨t, hrun, hcompare, hie, hastate, _⟩ := startArmsWhateverTheTicks s n0 n1 n2 n3 h hw hready hdone
  obtain ⟨t', hrun', hpending, hdeadline⟩ := run_start_ahead (moves := moves) (n0 := n0) (n1 := n1) (n2 := n2) (n3 := n3)
    h hw hready hdone (by simp [moves]) hd rfl (by omega)
  obtain rfl : t = t' := Host.Outcome.next.inj (hrun.symm.trans hrun')
  exact ⟨t, _, hrun, hcompare.trans hd.symm, hpending, hdeadline.near, hie, hastate,
    run_ticks_to_deadline hdeadline (by omega), rfl, by simp [irq, hie], rfl⟩

/-- INIT reaches that state from RESET. -/
theorem inv_nearMiss : Inv nearMiss := by
  have hinit := initFromResetSetsUp nearMissConfig { zeroDraws with argNormal := 4 } [] (by decide)
  exact inv_of_runSteps (s := withMoves _ (State.resetWith _ _ _)) (inv_resetWith _ _ _) hinit

/-- Three ticks before U_ARM_ARG: the compare write is 1 ahead, within `MISS_WINDOW` (R72). -/
theorem nearMiss_start : ∃ t, runSteps 8 (withMoves ([cmdWrite nearMiss .start] ++ ticks 3 ++
    [.sequencer, .sequencer, .sequencer, .sequencer]) nearMiss) = .next t ∧ t.near = true := ⟨_, rfl, rfl⟩

/-- Refutes O56: with `MISS_WINDOW = 3` and the deadline 4 ahead, three ticks keep to the premise and leave NEAR at 1. -/
theorem not_lookaheadMaxPremiseKeepsNearClear : ¬ Obligations.LookaheadMaxPremiseKeepsNearClear := by
  intro h
  obtain ⟨t, hrun, hclear⟩ := h nearMiss 4 3 3 inv_nearMiss (by decide) (by decide) rfl (by decide) (by decide)
    (by unfold lookaheadKept; decide)
  obtain ⟨u, hrun', hnear⟩ := nearMiss_start
  obtain rfl : u = t := Host.Outcome.next.inj (hrun'.symm.trans hrun)
  exact Bool.noConfusion (hclear.symm.trans hnear)

end Sys2Proof.Proofs
end

section
/-!
STOP racing a raised request (spec/70_reset_and_hazards.md R148), with moves of the counter and of the acceptance anywhere
between: the service, its callback and CBRET, then STOP; or STOP, and no service.
-/

namespace Sys2Proof.Proofs

open Sys2Proof.Machine Sys2Proof.Safety Sys2Proof.Laws

/-- The state STOP leaves where it is issued in the Normal context and no tick falls inside it (R84, R106). -/
def stopped (s : State) : State :=
  { s with
    ie := false, pending := false, astate := .disarmed, seq := [], seqCtx := .normal, seqOpc := 0x04,
    seqArg := s.normal.arg, result := 0, normal := { s.normal with rval := 0, rstat := 0 } }

/-- The state CBRET leaves where no tick falls inside it (R106, R112). -/
def returned (s : State) : State :=
  { s with
    ctx := .normal, callback := { s.callback with rval := 0, rstat := 0 }, seq := [], seqCtx := .callback,
    seqOpc := 0x08, seqArg := s.callback.arg, result := 0 }

/-- From `s`, where STOP is issued, to `t` it is under way or done: no service can start, and none has notified. -/
structure Stopping (s t : State) : Prop where
  /-- The context stays Normal. -/
  ctx : t.ctx = .normal
  /-- Nothing is notified. -/
  notified : notifyCount t.hist = notifyCount s.hist
  /-- The sequence is whole, or U_IE0 has run. -/
  disabled : t.seq = codes [.uIe0, .uClr, .uDisarmed] ∨ t.ie = false ∧ t.seq <:+ codes [.uClr, .uDisarmed]

section StopRace

variable {s t : State} {m : Move} {i : Instr} {k n : Nat} {q : List Byte} {ms l0 l1 l2 l3 rest : List Move}

/-! The run of STOP. -/

theorem finishUop_quiet (h : QuietRel s t) : QuietRel (finishUop s) (finishUop t) := by
  refine ⟨?_, by simpa using h.notified⟩
  rw [h.eq]
  unfold finishUop
  split <;> rfl

/-- Scheduled moves of the counter and the acceptance, then a sequencer move on a μop the services share, in a sequence of
any context (R105). -/
theorem run_quietUop (hms : ticksAndAccepts ms = true) (hi : i ∈ serviceUops) (hq : s.seq = i.code :: q)
    (h : s.schedule = ms ++ .sequencer :: rest) :
    ∃ t, runSteps (ms.length + 1) s = .next (finishUop t) ∧ QuietRel (performed i { s with seq := s.seq.tail }) t ∧
      (LatchDownAfter s.cfg (s.pending = false) (ms, i) → t.pending = false) ∧ t.cfg = s.cfg ∧ t.seq = q ∧
      t.schedule = rest := by
  obtain ⟨hu, hav⟩ := serviceUop_available hi s.cfg
  obtain ⟨u, hrun, hquiet, hlatch⟩ := run_quietThenUop ms s rest i (performed i) q h hms hq hu hav (performs_service hi)
  have hpopped : QuietRel { s with seq := s.seq.tail } { u with schedule := rest, seq := q } :=
    ⟨by rw [hquiet.eq, hq, List.tail_cons], hquiet.notified⟩
  obtain ⟨_, _, _, _, _, _, _, e⟩ := serviceUop_frame hi { u with schedule := rest, seq := q }
  exact ⟨_, hrun, serviceUop_quiet hi hpopped, fun hd => serviceUop_latch hi (hd.imp_right fun ⟨hp, htick, hmatch⟩ =>
    ⟨(hlatch htick).trans hp, by rwa [hquiet.cfg]⟩), by rw [e]; exact hquiet.cfg, by rw [e], by rw [e]⟩

/-- A sequence of such μops runs to its response. -/
theorem run_quietUops (x : List Move × Instr) (l : List (List Move × Instr))
    (hms : ∀ y ∈ x :: l, ticksAndAccepts y.1 = true) (hl : (x :: l).map Prod.snd ⊆ serviceUops)
    (hq : s.seq = codes ((x :: l).map Prod.snd)) (h : s.schedule = sequencerAfter ((x :: l).map Prod.fst) ++ rest)
    {down : Prop} (hdown : down → s.pending = false) :
    ∃ t, runSteps (sequencerAfter ((x :: l).map Prod.fst)).length s = .next (finishUop t) ∧
      QuietRel (performedAll ((x :: l).map Prod.snd) s) t ∧ (LatchDown s.cfg down (x :: l) → t.pending = false) ∧
      t.schedule = rest := by
  induction l generalizing x s down with
  | nil =>
    obtain ⟨u, hrun, hquiet, hlatch, _, _, hsched⟩ := run_quietUop (rest := rest) (hms x List.mem_cons_self)
      (hl List.mem_cons_self) hq (by simpa using h)
    exact ⟨u, by simpa using hrun, hquiet, fun hd => hlatch (hd.imp_right (And.imp_left hdown)), hsched⟩
  | cons y l ih =>
    obtain ⟨hi, hl⟩ := List.cons_subset.1 hl
    obtain ⟨u, hrun, hquiet, hlatch, hcfg, hseq, hsched⟩ := run_quietUop
      (rest := sequencerAfter ((y :: l).map Prod.fst) ++ rest) (hms x List.mem_cons_self) hi hq (by simpa using h)
    rw [finishUop_silent (.inl (by simp [hseq]))] at hrun
    obtain ⟨t, hrest, htail, hend, hs⟩ := ih y (fun z hz => hms z (List.mem_cons_of_mem x hz)) hl hseq hsched
      (down := LatchDownAfter s.cfg down x) fun hd => hlatch (hd.imp_right (And.imp_left hdown))
    refine ⟨t, ?_, (serviceUops_quiet hl hquiet).trans htail, hcfg ▸ hend, hs⟩
    rw [show (sequencerAfter ((x :: y :: l).map Prod.fst)).length =
      x.1.length + 1 + (sequencerAfter ((y :: l).map Prod.fst)).length by simp; omega]
    exact runSteps_trans hrun hrest

/-- What STOP's μops and its response make of the state, but for the registers ticks write, is `stopped`. -/
theorem quiet_stopped (hctx : s.ctx = .normal) (ms : List Move) : QuietRel (stopped s) (finishUop
    (performedAll [.uIe0, .uClr, .uDisarmed]
      (loadSequence Instr.stop.code (sequenceOf s.cfg .stop) { s with schedule := ms }))) := by
  rw [finishUop_responds (x := .normal) rfl hctx (by decide), writeResponse_normal]
  exact ⟨by simp [stopped, performedAll, performed, performs, loadSequence, sequenceOf, bankOf, hctx, Instr.code], rfl⟩

theorem stopped_quiet (h : QuietRel s t) : QuietRel (stopped s) (stopped t) :=
  ⟨by rw [h.eq]; rfl, h.notified⟩

theorem cmdWrite_of_cfg (h : t.cfg = s.cfg) (i : Instr) : cmdWrite s i = cmdWrite t i := by
  rw [cmdWrite, cmdWrite, h]

theorem ready_quiet (h : QuietRel s t) (hready : ready s = true) : ready t = true := by
  rw [ready_iff, held_eq_false] at hready ⊢
  rwa [h.seq, h.ctx, h.fault]

/-- STOP in the Normal context, with ticks before its write and moves of the counter and the acceptance after it: no service
starts. -/
theorem run_stop (hready : ready s = true) (hd : s.initDone = true) (hr : s.run = true) (hctx : s.ctx = .normal)
    (hl : [l0, l1, l2, l3].all ticksAndAccepts = true)
    (hsched : s.schedule = ticks n ++ cmdWrite s .stop :: (sequencerAfter [l0, l1, l2] ++ (l3 ++ rest))) :
    ∃ t, runSteps (n + (1 + ((sequencerAfter [l0, l1, l2]).length + l3.length))) s = .next t ∧ QuietRel (stopped s) t ∧
      t.schedule = rest ∧ (.tick ∉ l2 → .tick ∉ l3 → t.pending = false) := by
  simp only [List.all_cons, List.all_nil, Bool.and_true, Bool.and_eq_true] at hl
  obtain ⟨hl0, hl1, hl2, hl3⟩ := hl
  obtain ⟨w, hwait, hticks, hws, _⟩ := run_ticks n s _ hsched hr
  have hw := quietRel_of_ticks hticks
  have hload := run_commandWrite w _ .stop (cmdWrite_of_cfg hw.cfg _ ▸ hws) (ready_quiet hw hready) rfl
    (dispatchFault_afterInit (hw.initDone.trans hd) (by decide) (by decide))
  obtain ⟨u, hrun, hquiet, hlatch, hus⟩ := run_quietUops (rest := l3 ++ rest) (down := False) (l0, .uIe0)
    [(l1, .uClr), (l2, .uDisarmed)] (s := loadSequence Instr.stop.code (sequenceOf w.cfg .stop) { w with schedule := _ })
    (by simp [hl0, hl1, hl2]) (by simp [serviceUops]) rfl rfl False.elim
  have hdone := ((stopped_quiet hw).trans (quiet_stopped (hw.ctx.trans hctx) _)).trans (finishUop_quiet hquiet)
  obtain ⟨t, hrest, htail, hts, hpending⟩ := run_quiet l3 (finishUop u) rest ((finishUop_schedule u).trans hus) hl3
    (.inr (.inr hdone.ie))
  refine ⟨t, runSteps_trans hwait (runSteps_trans hload (runSteps_trans hrun hrest)), hdone.trans htail, hts,
    fun h2 h3 => ?_⟩
  rw [hpending h3, finishUop_pending]
  exact hlatch (by simp [LatchDown, LatchDownAfter, h2])

/-! The service and CBRET before it. -/

/-- CBRET in the callback, with moves of the counter and the acceptance before its write and before its μop. -/
theorem run_cbret (hready : ready s = true) (hd : s.initDone = true) (hctx : s.ctx = .callback)
    (h0 : ticksAndAccepts l0 = true) (h1 : ticksAndAccepts l1 = true)
    (hsched : s.schedule = l0 ++ cmdWrite s .cbret :: (l1 ++ .sequencer :: rest)) :
    ∃ t, runSteps (l0.length + (1 + (l1.length + 1))) s = .next t ∧ QuietRel (returned s) t ∧ t.schedule = rest := by
  obtain ⟨u, hwait, hu, hus, _⟩ := run_quiet l0 s _ hsched h0 (.inr (.inl (by simp [hctx])))
  have hload := run_commandWrite u _ .cbret (cmdWrite_of_cfg hu.cfg _ ▸ hus) (ready_quiet hu hready) rfl
    (dispatchFault_cbret (hu.initDone.trans hd) (hu.ctx.trans hctx))
  obtain ⟨v, hrun, hv, _⟩ := run_quietThenUop l1
    (loadSequence Instr.cbret.code (sequenceOf u.cfg .cbret) { u with schedule := l1 ++ .sequencer :: rest }) rest .uCbret
    returnFromCallback [] rfl h1 rfl rfl rfl fun _ => rfl
  have hresponse := finishUop_responds (s := returnFromCallback { v with schedule := rest, seq := [] }) (x := .callback) rfl
    (hv.seqCtx.trans (hu.ctx.trans hctx)) (by decide)
  rw [hresponse, writeResponse_callback] at hrun
  refine ⟨_, runSteps_trans hwait (runSteps_trans hload hrun), ⟨?_, hv.notified.trans hu.notified⟩, rfl⟩
  rw [hv.eq, hu.eq]
  simp [returned, returnFromCallback, loadSequence, bankOf, hctx, Instr.code]

/-- The callback, CBRET, and then STOP, if no acceptance is taken before its write. -/
theorem run_callbackThenStop {k0 k1 callback stop : List Move} (hready : ready s = true) (hd : s.initDone = true)
    (hr : s.run = true) (hctx : s.ctx = .callback) (hl : [k0, k1, l0, l1, l2, l3].all ticksAndAccepts = true)
    (hcallback : callback = k0 ++ [cmdWrite s .cbret] ++ sequencerAfter [k1])
    (hstop : stop = ticks n ++ [cmdWrite s .stop] ++ sequencerAfter [l0, l1, l2] ++ l3)
    (hsched : s.schedule = callback ++ (stop ++ rest)) :
    ∃ t u, runSteps callback.length s = .next t ∧ QuietRel (returned s) t ∧ runSteps stop.length t = .next u ∧
      QuietRel (stopped t) u ∧ u.schedule = rest := by
  subst hcallback hstop
  rw [List.all_cons, List.all_cons, Bool.and_eq_true, Bool.and_eq_true] at hl
  obtain ⟨hk0, hk1, hl⟩ := hl
  obtain ⟨_, hf⟩ := ready_iff.1 hready
  obtain ⟨t, hrun, ht, hts⟩ := run_cbret hready hd hctx hk0 hk1 (by simpa using hsched)
  have htready : ready t = true := ready_iff.2 ⟨held_eq_false.2 ⟨ht.seq, by simp [ht.ctx, returned]⟩, ht.fault.trans hf⟩
  obtain ⟨u, hrun', hu, hus, _⟩ := run_stop (n := n) (rest := rest) htready (ht.initDone.trans hd) (ht.run.trans hr) ht.ctx hl
    (by rw [hts, cmdWrite_of_cfg (show t.cfg = s.cfg from ht.cfg)]; simp)
  refine ⟨t, u, ?_, ht, ?_, hu, hus⟩
  · simpa [Nat.add_comm, Nat.add_left_comm] using hrun
  · simpa [Nat.add_comm, Nat.add_left_comm] using hrun'

/-- What a service leaves of the state it was accepted in (R99, R100, R124). -/
theorem serviceSequence_frame (s : State) : ∃ c p n e a h,
    performedAll (serviceSequence s.cfg) (enterService s) = { enterService s with
      compare := c, pending := p, near := n, ie := e, astate := a, ctx := .callback, hist := h, seq := [] } := by
  unfold enterService serviceSequence
  split <;> exact ⟨_, _, _, _, _, _, rfl⟩

/-- The service, with moves of the counter and the acceptance before each of its μops, whatever the mode. -/
theorem run_acceptedService {ls : List (List Move)} (ha : acceptEnabled s = true)
    (hlen : ls.length = if s.cfg.modeSel = 0 then 3 else 5) (hls : ls.all ticksAndAccepts = true) :
    ∃ c p n e a h t, runSteps (.accept :: sequencerAfter ls).length (withMoves (.accept :: sequencerAfter ls) s) = .next t ∧
      QuietRel { enterService s with
        compare := c, pending := p, near := n, ie := e, astate := a, ctx := .callback, hist := h, seq := [] } t ∧
      notifyCount t.hist = notifyCount s.hist + 1 ∧ t.schedule = s.schedule := by
  have hlen : ls.length = (serviceSequence s.cfg).length := by
    rw [hlen, serviceSequence]
    split <;> rfl
  have hsnd : (ls.zip (serviceSequence s.cfg)).map Prod.snd = serviceSequence s.cfg := List.map_snd_zip hlen.ge
  obtain ⟨t, hrun, hend⟩ := run_service (ls.zip (serviceSequence s.cfg)) (moves := .accept :: sequencerAfter ls)
    (fun x hx => List.all_eq_true.1 hls _ (List.of_mem_zip hx).1) ha hsnd.symm (by rw [List.map_fst_zip hlen.le])
  obtain ⟨c, p, n, e, a, h, hframe⟩ := serviceSequence_frame s
  exact ⟨c, p, n, e, a, h, t, hrun, by rw [← hframe, ← hsnd]; exact hend.quiet, hend.notified, hend.schedule⟩

/-! The race with STOP first: every state on the way. -/

theorem Stopping.not_acceptEnabled (h : Stopping s t) : acceptEnabled t = false := by
  rcases h.disabled with hq | ⟨hie, _⟩
  · exact Laws.not_acceptEnabled (.inl (by simp [hq, codes]))
  · exact Laws.not_acceptEnabled (.inr (.inr hie))

/-- A μop of STOP, U_IE0 or one after it. -/
theorem Stopping.uop (h : Stopping s t) (hi : i = .uIe0 ∨ t.ie = false ∧ (i = .uClr ∨ i = .uDisarmed))
    (hq : t.seq = i.code :: q) (hsuffix : q <:+ codes [.uClr, .uDisarmed]) :
    ∃ u, sequencerStep t = .next u ∧ Stopping s u ∧ u.schedule = t.schedule := by
  obtain ⟨hservice, p, a, hperformed⟩ : i ∈ serviceUops ∧ ∃ p a, performed i { t with seq := q } =
      { t with pending := p, ie := false, astate := a, seq := q } := by
    rcases hi with rfl | ⟨hie, rfl | rfl⟩
    · exact ⟨by decide, _, _, rfl⟩
    · exact ⟨by decide, _, _, by rw [← hie]; rfl⟩
    · exact ⟨by decide, _, _, by rw [← hie]; rfl⟩
  obtain ⟨hu, hav⟩ := serviceUop_available hservice t.cfg
  refine ⟨finishUop { t with pending := p, ie := false, astate := a, seq := q }, ?_, ⟨?_, ?_, .inr ⟨?_, ?_⟩⟩, ?_⟩
  · simp only [Machine.sequencerStep, hq, decodeUop_code i hu]
    exact exec_performs hu hav (hperformed ▸ performs_service hservice _)
  · rw [finishUop_ctx, h.ctx]
  · rw [finishUop_hist, h.notified]
  · rw [finishUop_ie]
  · rwa [finishUop_seq]
  · rw [finishUop_schedule]

/-- The sequencer runs STOP on. -/
theorem Stopping.sequencerStep (h : Stopping s t) :
    ∃ u, sequencerStep t = .next u ∧ Stopping s u ∧ u.schedule = t.schedule := by
  rcases h.disabled with hq | ⟨hie, hsuffix⟩
  · exact h.uop (i := .uIe0) (.inl rfl) hq (List.suffix_refl _)
  simp only [codes, List.map, List.suffix_cons_iff, List.suffix_nil] at hsuffix
  rcases hsuffix with hq | hq | hq
  · exact h.uop (i := .uClr) (.inr ⟨hie, .inl rfl⟩) hq (List.suffix_cons _ _)
  · exact h.uop (i := .uDisarmed) (.inr ⟨hie, .inr rfl⟩) hq List.nil_suffix
  · exact ⟨t, by simp only [Machine.sequencerStep, hq], h, rfl⟩

theorem Stopping.act (h : Stopping s t) (hm : hostMove m = false) :
    ∃ u, act m t = .next u ∧ Stopping s u ∧ u.schedule = t.schedule := by
  cases m with
  | tick =>
    have hq := tick_quiet t
    exact ⟨_, rfl, ⟨hq.ctx.trans h.ctx, hq.notified.trans h.notified, by rw [hq.seq, hq.ie]; exact h.disabled⟩,
      tick_schedule t⟩
  | accept => exact ⟨_, rfl, by rw [accept_disabled h.not_acceptEnabled]; exact ⟨h, rfl⟩⟩
  | sequencer => exact h.sequencerStep
  | host a => cases hm

/-- However many of the moves without an access have run, STOP is under way or done. -/
theorem Stopping.run (h : Stopping s t) (hms : ms.all (fun m => !hostMove m) = true) (hs : t.schedule = ms ++ rest)
    (hk : k ≤ ms.length) : ∃ u, runSteps k t = .next u ∧ Stopping s u := by
  induction k generalizing t ms with
  | zero => exact ⟨t, rfl, h⟩
  | succ k ih =>
    cases ms with
    | nil => cases hk
    | cons m ms =>
      simp only [List.all_cons, Bool.and_eq_true, Bool.not_eq_true'] at hms
      have h' : Stopping s { t with schedule := ms ++ rest } := { h with }
      obtain ⟨u, hact, hu, hus⟩ := h'.act hms.1
      obtain ⟨v, hrun, hv⟩ := ih hu hms.2 hus (by simpa using hk)
      refine ⟨v, ?_, hv⟩
      rw [Nat.add_comm]
      exact runSteps_trans (runSteps_one ((step_of_schedule hs).trans hact)) hrun

theorem noAccess_of_ticksAndAccepts (h : ticksAndAccepts ms = true) : ms.all (fun m => !hostMove m) = true := by
  refine List.all_eq_true.2 fun m hm => ?_
  have hm := List.all_eq_true.1 h m hm
  cases m <;> simp_all [hostMove]

theorem noAccess_sequencerAfter {ls : List (List Move)} (h : ls.all ticksAndAccepts = true) :
    (sequencerAfter ls).all (fun m => !hostMove m) = true := by
  induction ls with
  | nil => rfl
  | cons l ls ih =>
    simp only [List.all_cons, Bool.and_eq_true] at h
    rw [sequencerAfter_cons, List.all_append, List.all_cons, noAccess_of_ticksAndAccepts h.1, ih h.2]
    rfl

/-- From the write of STOP on no acceptance is enabled and nothing is notified, however far its moves have run. -/
theorem run_stop_partly {stop : List Move} (hready : ready s = true) (hd : s.initDone = true) (hctx : s.ctx = .normal)
    (hl : [l0, l1, l2, l3].all ticksAndAccepts = true)
    (hstop : stop = [cmdWrite s .stop] ++ sequencerAfter [l0, l1, l2] ++ l3) (hk : k ≤ stop.length) :
    ∃ u, runSteps k (withMoves stop s) = .next u ∧ u.ctx = .normal ∧ notifyCount u.hist = notifyCount s.hist ∧
      (1 ≤ k → acceptEnabled u = false) := by
  subst hstop
  cases k with
  | zero => exact ⟨_, rfl, hctx, rfl, fun h => absurd h (by decide)⟩
  | succ k =>
    have hload := run_load (sequencerAfter [l0, l1, l2] ++ l3) (i := .stop) hready hd rfl (by decide) (by decide)
    have hbegun : Stopping s (loadSequence Instr.stop.code (sequenceOf s.cfg .stop)
      { s with schedule := (sequencerAfter [l0, l1, l2] ++ l3) ++ s.schedule }) := ⟨hctx, rfl, .inl rfl⟩
    have hmoves : (sequencerAfter [l0, l1, l2] ++ l3).all (fun m => !hostMove m) = true := by
      simp only [List.all_cons, List.all_nil, Bool.and_true, Bool.and_eq_true] at hl
      obtain ⟨hl0, hl1, hl2, hl3⟩ := hl
      rw [List.all_append, noAccess_sequencerAfter (by simp [hl0, hl1, hl2]), noAccess_of_ticksAndAccepts hl3]
      rfl
    obtain ⟨u, hrun, hu⟩ := hbegun.run (k := k) hmoves rfl (by simpa using hk)
    refine ⟨u, ?_, hu.ctx, hu.notified, fun _ => hu.not_acceptEnabled⟩
    rw [Nat.add_comm]
    exact runSteps_trans hload hrun

end StopRace

/-- Settles O59: ACCEPT first, the service, CBRET and STOP one after another; STOP first, `Stopping` on the way and
`stopped` at the end. -/
theorem stopAndAcceptBothOrders : Obligations.StopAndAcceptBothOrders := by
  intro s h ha
  obtain ⟨hf, hd, hctx, hq, _, _⟩ := acceptEnabled_iff.1 ha
  have hr : s.run = true := h.runIsInit.trans hd
  have hready : ready s = true := ready_iff.2 ⟨held_eq_false.2 ⟨hq, by simp [hctx]⟩, hf⟩
  refine ⟨⟨_, run_accept (withMoves _ s) _ rfl ha, rfl, by simp [held]⟩, ?_, ?_⟩
  · intro ls k0 k1 l0 l1 l2 l3 n hlen hls hl service callback stop
    obtain ⟨_, _, _, _, _, _, t, hrun, ht, htn, hts⟩ :=
      run_acceptedService (s := withMoves (callback ++ stop) s) ha hlen hls
    have htready : ready t = true := ready_iff.2 ⟨held_eq_false.2 ⟨ht.seq, by simp [ht.ctx]⟩, ht.fault.trans hf⟩
    have htcfg : t.cfg = s.cfg := ht.cfg
    obtain ⟨u, v, hrun', hu, hrun'', hv, hvs⟩ := run_callbackThenStop (callback := callback) (stop := stop)
      (rest := s.schedule) htready (ht.initDone.trans hd) (ht.run.trans hr) ht.ctx hl
      (by rw [← cmdWrite_of_cfg htcfg]) (by rw [← cmdWrite_of_cfg htcfg]) (by rw [hts]; simp [withMoves])
    have hnormal : v.normal = { t.normal with rval := 0, rstat := 0 } := by rw [hv.normal, stopped, hu.normal]; rfl
    refine ⟨t, u, v, ?_, ht.ctx, ht.seq, htn, hrun', hu.ctx, hu.seq, hrun'', hv.ctx.trans hu.ctx, hv.seq, hv.ie,
      hv.astate, hv.compare, hv.notified.trans (hu.notified.trans htn), hv.fault.trans (hu.fault.trans (ht.fault.trans hf)),
      hnormal.trans (by rw [ht.normal]; rfl), hvs⟩
    simpa [service, withMoves] using hrun
  · intro l0 l1 l2 l3 hl stop
    obtain ⟨t, hrun, ht, hts, hlatch⟩ := run_stop (s := withMoves stop s) (n := 0) (rest := s.schedule) hready hd hr hctx hl
      (by simp [withMoves, stop, ticks, cmdWrite])
    refine ⟨fun k hk => ?_, t, ?_, ht.seq, ht.ie, ht.astate, ht.compare, ht.fault.trans hf, ht.normal, hts, hlatch⟩
    · exact run_stop_partly hready hd hctx hl rfl hk
    · simpa [stop, Nat.add_comm, Nat.add_left_comm] using hrun

end Sys2Proof.Proofs
end
